-- ==== Sys2Proof/Word.lean ====
section
/-! DEFINITION. The word types of the cipher core: every value is an unsigned value of a fixed width, bit 0 the least
significant (rule R6, 00_scope.md). Nothing in this hardware is signed. -/

namespace Sys2Proof

/-- A byte; within a byte bit 7 is the most significant (rule R8). -/
abbrev Byte := BitVec 8

/-- A key-schedule half `C` or `D` of the Feistel engine, `F_CD` = 28 bits (rule R4). -/
abbrev Half28 := BitVec 28

/-- A block half `L` or `R` of the Feistel engine, `F_HALF` = 32 bits (rule R4). -/
abbrev Half32 := BitVec 32

/-- A key word of the SPN engine; its first byte is bits 31:24 (rule R8). -/
abbrev Word := BitVec 32

/-- A Feistel round key, `F_RK` = 48 bits (rule R4). -/
abbrev RoundKey := BitVec 48

/-- A Feistel block or key as supplied, `F_BLOCK` = `F_KEY` = 64 bits (rule R4). -/
abbrev Block64 := BitVec 64

/-- An SPN block or key, `S_BLOCK` = `S_KEY` = 128 bits, and the width of `KEY`, `DIN`, `DOUT` (rules R4, R21). -/
abbrev Block128 := BitVec 128

/-- The Feistel round-key bank `FRK[1..16]`; entry `i` stands at place `i - 1` (rule R30). -/
abbrev FrkBank := Vector RoundKey 16

/-- The SPN round-key bank `W[0..43]` (rule R31). -/
abbrev WBank := Vector Word 44

/-- A character string, as the Codec sees it (rule R111). -/
abbrev Text := List Char

/-- A bit sequence; the head of the list is sequence position 1, the most significant bit (rule R7). -/
abbrev BitSeq := List Bool

end Sys2Proof
end

