-- ==== Sys2Proof/Config.lean ====
section
/-! DEFINITION. What is fixed for the machine (rule R4), the one parameter the spec leaves open (rule R5, D18), and the free
values: what the working registers hold between commands, which rule R32 leaves unspecified. -/

namespace Sys2Proof

/-- The operand length in bits that FKS, FENC and FDEC demand (rules R4, R25, R26). -/
abbrev Config.feistelBits : BitVec 16 := 64

/-- The operand length in bits that SKX, SENC and SDEC demand (rules R4, R25, R26). -/
abbrev Config.spnBits : BitVec 16 := 128

/-- `F_ROUNDS` (rule R4). -/
abbrev Config.fRounds : Nat := 16

/-- `S_ROUNDS` (rule R4). -/
abbrev Config.sRounds : Nat := 10

/-- `S_WORDS` (rule R4). -/
abbrev Config.sWords : Nat := 44

/-- The default of `N_INST`, which is open in the spec: a positive integer (rule R5, D18). -/
abbrev Config.defaultInstances : ℕ+ := 1

/-- Free value: what `C` holds between commands (rule R32: "their value between commands is unspecified"). Log entry 1. -/
opaque Config.freeC : Nat → Half28

/-- Free value: what `D` holds between commands (rule R32). Log entry 1. -/
opaque Config.freeD : Nat → Half28

/-- Free value: what `L` holds between commands (rule R32). Log entry 1. -/
opaque Config.freeL : Nat → Half32

/-- Free value: what `R` holds between commands (rule R32). Log entry 1. -/
opaque Config.freeR : Nat → Half32

/-- Free value: what `ST` holds between commands (rule R32). Log entry 1. -/
opaque Config.freeST : Nat → Block128

/-- Free value: what `T` holds between commands (rule R32). Log entry 1. -/
opaque Config.freeT : Nat → Word

/-- Free value: what `DIR` holds between commands (rule R32). Log entry 1. -/
opaque Config.freeDIR : Nat → Bool

end Sys2Proof
end

