-- ==== Sys2Proof/Syntax.lean ====
section
/-! DEFINITION. The syntax: the six commands (rule R92), one constructor per row of spec/opcode_table.json, and what a host
can do to the engine (rules R61, R97, R98, R262). A command has no operand field (rule R93). -/

namespace Sys2Proof

/-- The commands of rule R92 (30_encoding.md). -/
inductive Instr where
  /-- Feistel key schedule, word 0x01 (rule R141). -/
  | fks
  /-- Feistel transform, forward, word 0x02 (rule R147). -/
  | fenc
  /-- Feistel transform, reverse, word 0x03 (rule R148). -/
  | fdec
  /-- SPN key expansion, word 0x05 (rule R183). -/
  | skx
  /-- SPN encrypt, word 0x06 (rule R189). -/
  | senc
  /-- SPN decrypt, word 0x07 (rule R194). -/
  | sdec
deriving DecidableEq, Repr

/-- The value of one whole-register access, at the register's own width (rules R21, R61). -/
inductive RegVal where
  | w8 (v : BitVec 8)
  | w16 (v : BitVec 16)
  | w32 (v : BitVec 32)
  | w48 (v : BitVec 48)
  | w128 (v : BitVec 128)
  /-- What a reserved index reads as: 0; the spec gives it no width (rule R21). Log entry 12. -/
  | zero
deriving DecidableEq, Repr

/-- The number a register value is. -/
def RegVal.toNat : RegVal → Nat
  | .w8 v => v.toNat
  | .w16 v => v.toNat
  | .w32 v => v.toNat
  | .w48 v => v.toNat
  | .w128 v => v.toNat
  | .zero => 0

/-- One entry of a host program: a host access, a reset, a place for a sequencer step, or a pseudo-instruction
(rules R97, R98, R262). -/
inductive HostAction where
  /-- `RD`: `RegRead(n)`. -/
  | rd (n : Nat)
  /-- `WR`: `RegWrite(n, v)`. -/
  | wr (n : Nat) (v : RegVal)
  /-- `CMD <mnemonic>`: `WR CMD` with the mnemonic's word. -/
  | cmd (i : Instr)
  /-- `RESET`: the reset event of rule R250. -/
  | reset
  /-- A sequencer step takes place here, before the host's next action (rule R262). Log entry 7. -/
  | engine
  /-- `WAIT`: repeat `RD STATUS` until `BUSY = 0`. -/
  | wait
  /-- `LDKEY "<hex>"`. -/
  | ldKey (text : Text)
  /-- `LDBLK "<hex>"`. -/
  | ldBlk (text : Text)
  /-- `RDOUT64`. -/
  | rdOut64
  /-- `RDOUT128`. -/
  | rdOut128
  /-- `FKEY "<hex>"`: `LDKEY` then `CMD FKS`. -/
  | fKey (text : Text)
  /-- `SKEY "<hex>"`: `LDKEY` then `CMD SKX`. -/
  | sKey (text : Text)
deriving DecidableEq, Repr

end Sys2Proof
end

