-- ==== Sys2Proof/Machine/State.lean ====
section
/-! DEFINITION. The state of one engine instance and of its host, as plain data (spec/10_state.md), the state after reset
(rules R38, R251), and the reasons a step can stop. There is no data memory (rules R60, R70) and no program counter
(rule R33): what runs next is the head of the host's program. -/

namespace Sys2Proof.Machine

/-- The reasons the machine stops with a fault. There is none: every error of this hardware is a code in `ERR` and a next
state (rules R220, R229), the fatal one included (rule R231), and "nothing is undefined" (rule R254). Log entry 11. -/
inductive Fault
deriving DecidableEq, Repr

/-- The reasons a request is given no meaning. -/
inductive Refusal where
  /-- An instruction without a meaning in this model: raised by `exec` alone; no arm raises it now. Safe. -/
  | notModelled (mnemonic : String)
  /-- A host write that is not a whole-register access: "A model refuses (gives no meaning to) any host access that is not a
  whole-register access" (rule R67). Raised by `regWrite`. Safe. -/
  | partialAccess (index : Nat)
  /-- `bitsToHex` on a length that is not a multiple of 4: "a model refuses the call" (rule R112, D21, I9). Raised by
  `bitsToHex`; no host action reaches it. Safe. -/
  | notWholeDigits
deriving DecidableEq, Repr

/-- The error kinds (rule R221). -/
inductive ErrKind where
  | invalidEncoding
  | invalidKeyLength
  | invalidBlockLength
  | tableLookupOutOfRange
  | illegalCommand
  | noSchedule
deriving DecidableEq, Repr

/-- The values of `PHASE` (rule R33). -/
inductive Phase where
  | idle
  /-- Transient, inside the issue step only. -/
  | decode
  | fksRun
  /-- FENC or FDEC, told apart by `DIR`. -/
  | fxRun
  | skxRun
  | sencRun
  | sdecRun
  /-- After `TableLookupOutOfRange`; only reset leaves it. -/
  | fault
deriving DecidableEq, Repr

/-- The working registers of the datapaths (rule R32). The host cannot reach them. -/
structure Work where
  /-- `C`, used by FKS. -/
  c : Half28
  /-- `D`, used by FKS. -/
  d : Half28
  /-- `L`, used by FENC, FDEC. -/
  l : Half32
  /-- `R`, used by FENC, FDEC. -/
  r : Half32
  /-- `ST`, the state matrix, used by SENC, SDEC. -/
  st : Block128
  /-- `T`, used by SKX. -/
  t : Word
  /-- `DIR`, 0 forward, 1 reverse; the copy of `CMD[0]` taken at issue. -/
  dir : Bool
deriving DecidableEq, Repr

/-- Which of the two readings of rule R261 a run follows: the whole command in its issue step, or one sequencer micro-step a
step. The model's own data. Log entry 4. -/
inductive Reading where
  | whole
  | stepwise
deriving DecidableEq, Repr

/-- What the host has got back. The model's own record of it. Log entry 6. -/
inductive Seen where
  /-- The value `RegRead(n)` returned (rule R61). -/
  | value (n : Nat) (v : RegVal)
  /-- The text of `RDOUT64` or `RDOUT128` (rule R98). -/
  | text (t : Text)
  /-- A boundary call ended with an error kind, before any register was written (rules R113, R222). -/
  | boundary (e : ErrKind)
deriving DecidableEq, Repr

/-- One engine instance and its host. `STATUS.BUSY` and `STATUS.ERRF` are views of `phase` and `err` (rule R23) and are
computed in Machine/Flags.lean. -/
structure State where
  /-- `CMD`, index 0 (rule R22). -/
  cmd : BitVec 8
  /-- `ERR`, index 2 (rule R24). -/
  err : BitVec 8
  /-- `KLEN`, index 3 (rule R25). -/
  klen : BitVec 16
  /-- `BLEN`, index 4 (rule R26). -/
  blen : BitVec 16
  /-- `KEY`, index 5 (rule R27). -/
  key : Block128
  /-- `DIN`, index 6 (rule R28). -/
  din : Block128
  /-- `DOUT.raw`, behind index 7 (rule R29). -/
  doutRaw : Block128
  /-- `STATUS.DV` (rule R23). -/
  dv : Bool
  /-- `STATUS.FKV` (rule R23). -/
  fkv : Bool
  /-- `STATUS.SKV` (rule R23). -/
  skv : Bool
  /-- `STATUS.FATAL` (rule R23). -/
  fatal : Bool
  /-- `FRK[1..16]` (rule R30). -/
  frk : FrkBank
  /-- `W[0..43]` (rule R31). -/
  w : WBank
  /-- `PHASE` (rule R33). -/
  phase : Phase
  /-- `RND`, 6 bits (rule R33). -/
  rnd : BitVec 6
  /-- The working registers (rule R32). -/
  work : Work
  /-- The model's own: how many times a free value was taken for the working registers. Log entry 1. -/
  free : Nat
  /-- The model's own: which reading of rule R261 the run follows. Log entry 4. -/
  reading : Reading
  /-- The host's program from here on, in program order (rules R71, R262). Log entry 5. -/
  script : List HostAction
  /-- What the host has got back, newest first. Log entry 6. -/
  seen : List Seen
deriving DecidableEq, Repr

/-- The working registers after reset: zero, which rule R252 allows. Log entry 2. -/
def Work.zero : Work := { c := 0, d := 0, l := 0, r := 0, st := 0, t := 0, dir := false }

/-- The state after reset (rules R38, R251, R252). No host program is loaded. -/
def State.reset : State where
  cmd := 0
  err := 0
  klen := 0
  blen := 0
  key := 0
  din := 0
  doutRaw := 0
  dv := false
  fkv := false
  skv := false
  fatal := false
  frk := Vector.replicate 16 0
  w := Vector.replicate 44 0
  phase := .idle
  rnd := 0
  work := Work.zero
  free := 0
  reading := .whole
  script := []
  seen := []

end Sys2Proof.Machine
end

