-- ==== Sys2Proof/Machine/Codec.lean ====
section
/-! DEFINITION. The Bit/Byte Codec (spec/40_codec.md): boundary functions between hexadecimal text, bit sequences, bytes and
register values. They have no state (rule R115). -/

namespace Sys2Proof.Machine

/-- `HEXDIGIT`, row after row of the table of rule R110: the digit in upper case, in lower case, and its four bits. -/
def tabHEXDIGIT : List (Char × Char × BitVec 4) :=
  [('0', '0', 0b0000), ('4', '4', 0b0100), ('8', '8', 0b1000), ('C', 'c', 0b1100),
   ('1', '1', 0b0001), ('5', '5', 0b0101), ('9', '9', 0b1001), ('D', 'd', 0b1101),
   ('2', '2', 0b0010), ('6', '6', 0b0110), ('A', 'a', 0b1010), ('E', 'e', 0b1110),
   ('3', '3', 0b0011), ('7', '7', 0b0111), ('B', 'b', 0b1011), ('F', 'f', 0b1111)]

/-- The four bits of a valid digit, in either case; a character of no row is not a digit (rule R110, D20). -/
def hexDigit (c : Char) : Option (BitVec 4) :=
  (tabHEXDIGIT.find? fun row => row.1 == c || row.2.1 == c).map fun row => row.2.2

/-- The upper-case digit `g` with `HEXDIGIT(g) = d`; every four bits have a row (rule R112). -/
def upperDigit (d : BitVec 4) : Char := ((tabHEXDIGIT.find? fun row => row.2.2 == d).map Prod.fst).getD '0'

/-- The bit sequence of an `n`-bit value, most significant bit first (rule R7). -/
def seqOf {n : Nat} (v : BitVec n) : BitSeq := (List.range n).map fun i => v.getLsbD (n - 1 - i)

/-- The number a bit sequence spells, position 1 the most significant (rules R7, R64). -/
def seqValue (s : BitSeq) : Nat := s.foldl (fun acc b => 2 * acc + b.toNat) 0

/-- The bits of a text all of whose characters are digits, four a digit (rule R111). -/
def hexBits : Text → Option BitSeq
  | [] => some []
  | h :: t =>
    match hexDigit h, hexBits t with
    | some d, some rest => some (seqOf d ++ rest)
    | _, _ => none

/-- `hexToBits`: the bit sequence, or `InvalidEncoding` where any character is not a digit; the whole text is checked before
any bit is produced (rules R111, R113). -/
def hexToBits (t : Text) : Except ErrKind BitSeq :=
  match hexBits t with
  | some s => .ok s
  | none => .error .invalidEncoding

/-- `bitsToHex`: one upper-case digit for each four bits; no meaning where the length is not a multiple of 4
(rule R112, D21). -/
def bitsToHex : BitSeq → Except Refusal Text
  | [] => .ok []
  | a :: b :: c :: d :: rest =>
    match bitsToHex rest with
    | .ok t => .ok (upperDigit (BitVec.ofBoolListBE [a, b, c, d]) :: t)
    | .error r => .error r
  | _ => .error .notWholeDigits

/-- The bit sequence of a byte buffer: byte `B_k` gives positions 8k+1 to 8k+8, most significant bit first (rule R114). -/
def bytesToBits (b : List Byte) : BitSeq := b.flatMap seqOf

end Sys2Proof.Machine
end

