-- ==== Sys2Proof/Machine/Operands.lean ====
section
/-! DEFINITION. Operand forms: the notation of rule R9 over fixed-width values (permutation tables, circular rotation), the
byte, word and matrix views of a 128-bit value (rules R8, R65), and the operand a command takes from `KEY` or `DIN`
(rules R27, R28, R66). -/

namespace Sys2Proof.Machine

/-- `pos(v, n, p)`: sequence position `p` of an `n`-bit value, position 1 the most significant bit (rule R7). -/
def pos {n : Nat} (v : BitVec n) (p : Nat) : Bool := v.getLsbD (n - p)

/-- `perm(T, v, n)`: the `m`-bit value whose output position `q` is input position `T[q]`, the entries taken in the order of
the table, the first one the most significant (rules R9, R11, R120). -/
def perm (m : Nat) (T : List Nat) {n : Nat} (v : BitVec n) : BitVec m :=
  BitVec.ofNat m (T.foldl (fun acc p => 2 * acc + (pos v p).toNat) 0)

/-- `rotl_n(v, k)`: circular left rotation, `((v << k) | (v >> (n - k))) mod 2^n` (rule R9). -/
def rotl {n : Nat} (v : BitVec n) (k : Nat) : BitVec n := (v <<< k) ||| (v >>> (n - k))

/-- Byte `B_k` of a 128-bit value, `v[127 - 8k : 120 - 8k]` (rule R8). -/
def byteAt (v : Block128) (k : Nat) : Byte := v.extractLsb' (120 - 8 * k) 8

/-- The 128-bit value `B_0 ‖ B_1 ‖ … ‖ B_15` (rules R8, R65). -/
def ofBytes (b : Nat → Byte) : Block128 :=
  b 0 ++ b 1 ++ b 2 ++ b 3 ++ b 4 ++ b 5 ++ b 6 ++ b 7 ++ b 8 ++ b 9 ++ b 10 ++ b 11 ++ b 12 ++ b 13 ++ b 14 ++ b 15

/-- The state matrix, column-major: `st[r][c] = B_{r + 4c}` (rules R8, R180). -/
def stAt (s : Block128) (r c : Nat) : Byte := byteAt s (r + 4 * c)

/-- Byte `k` of a 32-bit word, the first byte in bits 31:24 (rules R8, R65). -/
def wordByte (w : Word) (k : Nat) : Byte := w.extractLsb' (24 - 8 * k) 8

/-- The word `b0 ‖ b1 ‖ b2 ‖ b3` (rule R8). -/
def ofWordBytes (b0 b1 b2 b3 : Byte) : Word := b0 ++ b1 ++ b2 ++ b3

/-- Word `i` of a 128-bit value, word 0 in bits 127:96 (rule R65). -/
def wordOf (v : Block128) (i : Nat) : Word := v.extractLsb' (96 - 32 * i) 32

/-- The operand of a Feistel command: bits 63:0 of `KEY` or `DIN`; bits 127:64 are ignored (rules R27, R28, R66). -/
def feistelOperand (v : Block128) : Block64 := v.extractLsb' 0 64

/-- The operand of an SPN command: all 128 bits of `KEY` or `DIN` (rules R27, R28, R66). -/
def spnOperand (v : Block128) : Block128 := v

/-- What a Feistel transform puts in `DOUT.raw`: `zext_128` of its 64-bit result (rules R29, R66). -/
def feistelResult (r : Block64) : Block128 := r.setWidth 128

end Sys2Proof.Machine
end

