-- ==== Sys2Proof/Machine/Rom.lean ====
section
/-! DEFINITION. The ROM table spaces and the engine's lookup `TabRead` (rules R60, R62, R63): each table is a space of its own
with its own index range; an index outside it is the error `TableLookupOutOfRange`, here `none`. -/

namespace Sys2Proof.Machine

/-- The tables of rule R62 (20_memory.md), one constructor each; `s j` is the S-box of group `j`. -/
inductive Rom where
  | ip
  | fp
  | e
  | p
  | pc1
  | pc2
  | shift
  | s (j : Fin 8)
  | sbox
  | invsbox
  | rcon
  | mix
  | invmix
deriving DecidableEq, Repr

/-- The contents of a table as its list of entries, in index order; an S-box's index is `16·row + col` (rules R62, R136). -/
def Rom.entries : Rom → List Nat
  | .ip => tabIP
  | .fp => tabFP
  | .e => tabE
  | .p => tabP
  | .pc1 => tabPC1
  | .pc2 => tabPC2
  | .shift => tabSHIFT
  | .s j => (sboxTable (j.val + 1)).flatten.map BitVec.toNat
  | .sbox => tabSBOX.flatten.map BitVec.toNat
  | .invsbox => tabINVSBOX.flatten.map BitVec.toNat
  | .rcon => tabRCON.map BitVec.toNat
  | .mix => tabMIX.map BitVec.toNat
  | .invmix => tabINVMIX.map BitVec.toNat

/-- The first index of a table's range: 1 for the permutation tables and `SHIFT`, 0 for the others (rule R62). -/
def Rom.base : Rom → Nat
  | .ip => 1
  | .fp => 1
  | .e => 1
  | .p => 1
  | .pc1 => 1
  | .pc2 => 1
  | .shift => 1
  | .s _ => 0
  | .sbox => 0
  | .invsbox => 0
  | .rcon => 0
  | .mix => 0
  | .invmix => 0

/-- `TabRead(T, i)`: entry `i` of table `T`, or none where `i` lies outside the table's index range (rule R63). -/
def tabRead (T : Rom) (i : Nat) : Option Nat :=
  if T.base ≤ i then T.entries[i - T.base]? else none

/-- S-box addressing: row `2·g[5] + g[0]`, column `g[4:1]`, of the box of group `j`. Total: a 6-bit group names an entry of
its box (rules R136, R137). -/
def sboxOut (j : Nat) (g : BitVec 6) : BitVec 4 :=
  ((sboxTable j).getD (2 * (g.getLsbD 5).toNat + (g.getLsbD 0).toNat) []).getD (g.extractLsb' 1 4).toNat 0

/-- `TabRead(SBOX, x)`: the entry of row `x[7:4]`, column `x[3:0]`. Total on bytes (rules R170, R176). -/
def sboxByte (x : Byte) : Byte := (tabSBOX.getD (x.extractLsb' 4 4).toNat []).getD (x.extractLsb' 0 4).toNat 0

/-- `TabRead(INVSBOX, x)`: the entry of row `x[7:4]`, column `x[3:0]`. Total on bytes (rules R171, R176). -/
def invSboxByte (x : Byte) : Byte := (tabINVSBOX.getD (x.extractLsb' 4 4).toNat []).getD (x.extractLsb' 0 4).toNat 0

end Sys2Proof.Machine
end

