-- ==== Sys2Proof/Machine/FeistelCipher.lean ====
section
/-! DEFINITION. The functions of the Feistel engine (spec/42_feistel.md): the key schedule `KS`, the S-layer `SL`, the round
function `F`, the round `ROUND` and the block transform `FX`. The commands that use them are in Machine/Feistel.lean. -/

namespace Sys2Proof.Machine

/-- `C_0`: the first 28 positions of the parity-stripped key (rule R140). -/
def ksC0 (k : Block64) : Half28 := (perm 56 tabPC1 k).extractLsb' 28 28

/-- `D_0`: the last 28 positions of the parity-stripped key (rule R140). -/
def ksD0 (k : Block64) : Half28 := (perm 56 tabPC1 k).extractLsb' 0 28

/-- A half after round `i`: each round rotates the half as the round before left it, by `SHIFT[i]` (rules R141, R142). -/
def ksRotated (h : Half28) : Nat → Half28
  | 0 => h
  | i + 1 => rotl (ksRotated h i) (tabSHIFT.getD i 0)

/-- The compression of the two halves to a round key, `perm(PC2, C ‖ D, 56)` (rules R141, R142). -/
def ksCompress (c d : Half28) : RoundKey := perm 48 tabPC2 (c ++ d)

/-- `K_i`, the round key of round `i` (rule R142). -/
def ksRoundKey (k : Block64) (i : Nat) : RoundKey := ksCompress (ksRotated (ksC0 k) i) (ksRotated (ksD0 k) i)

/-- `KS(k)`: the sixteen round keys, `K_1` first (rule R142). -/
def feistelKS (k : Block64) : FrkBank := Vector.ofFn fun i => ksRoundKey k (i.val + 1)

/-- Group `j` (1..8) of the 48-bit round input, sequence positions 6j-5 to 6j (rule R143). -/
def slGroup (x : BitVec 48) (j : Nat) : BitVec 6 := x.extractLsb' (48 - 6 * j) 6

/-- `SL(x)`: eight S-box lookups, the first group's output most significant (rule R143). -/
def feistelSL (x : BitVec 48) : Half32 :=
  sboxOut 1 (slGroup x 1) ++ sboxOut 2 (slGroup x 2) ++ sboxOut 3 (slGroup x 3) ++ sboxOut 4 (slGroup x 4) ++
  sboxOut 5 (slGroup x 5) ++ sboxOut 6 (slGroup x 6) ++ sboxOut 7 (slGroup x 7) ++ sboxOut 8 (slGroup x 8)

/-- `F(r, k) = perm(P, SL(perm(E, r, 32) ⊕ k), 32)` (rule R144). -/
def feistelF (r : Half32) (k : RoundKey) : Half32 := perm 32 tabP (feistelSL (perm 48 tabE r ^^^ k))

/-- `ROUND(i, L, R, k)`: swap, except in round 16 (rule R145, C8). -/
def feistelRound (i : Nat) (lr : Half32 × Half32) (k : RoundKey) : Half32 × Half32 :=
  let t := lr.1 ^^^ feistelF lr.2 k
  if i < Config.fRounds then (lr.2, t) else (t, lr.2)

/-- The rounds from round `i` on, one key each, in the order of the list (rule R146). -/
def feistelRounds (i : Nat) (lr : Half32 × Half32) : List RoundKey → Half32 × Half32
  | [] => lr
  | k :: ks => feistelRounds (i + 1) (feistelRound i lr k) ks

/-- The block after the initial permutation, as the halves `(L, R)` (rule R146). -/
def fxLoad (b : Block64) : Half32 × Half32 :=
  let x := perm 64 tabIP b
  (x.extractLsb' 32 32, x.extractLsb' 0 32)

/-- The output block: the final permutation of `L ‖ R` (rule R146). -/
def fxUnload (lr : Half32 × Half32) : Block64 := perm 64 tabFP (lr.1 ++ lr.2)

/-- `FX(b, (k_1, …, k_16))`: the block transform, keys in the order they are used (rule R146). -/
def feistelFX (b : Block64) (ks : FrkBank) : Block64 := fxUnload (feistelRounds 1 (fxLoad b) ks.toList)

/-- The bank in reverse order, `(FRK[16], …, FRK[1])`, as FDEC takes it (rule R148). -/
def frkReversed (ks : FrkBank) : FrkBank := Vector.ofFn fun i => ks[15 - i.val]

end Sys2Proof.Machine
end

