-- ==== Sys2Proof/Decode.lean ====
section
/-! DEFINITION. The decoder, total on all 256 command words (rules R90, R91, R94, R96), and after it the encoder (rule R92). -/

namespace Sys2Proof

/-- Why a command word is illegal (rule R94). -/
inductive IllegalWord where
  /-- `RSV ≠ 0` (0x08 to 0xFF). -/
  | reservedBits
  /-- `FN = 00` (0x00 and 0x04). -/
  | reservedFunction
deriving DecidableEq, Repr

/-- The field `RSV`, bits 7:3 (rule R91). -/
def fieldRSV (w : BitVec 8) : BitVec 5 := w.extractLsb' 3 5

/-- The field `CIPH`, bit 2 (rule R91). -/
def fieldCIPH (w : BitVec 8) : BitVec 1 := w.extractLsb' 2 1

/-- The field `FN`, bits 1:0 (rule R91). -/
def fieldFN (w : BitVec 8) : BitVec 2 := w.extractLsb' 0 2

/-- The command of a legal pair of fields `CIPH`, `FN` (rules R91, R96). -/
def decodeFields (ciph : BitVec 1) (fn : BitVec 2) : Except IllegalWord Instr :=
  if fn = 0b00 then .error .reservedFunction
  else if ciph = 0 then
    if fn = 0b01 then .ok .fks else if fn = 0b10 then .ok .fenc else .ok .fdec
  else
    if fn = 0b01 then .ok .skx else if fn = 0b10 then .ok .senc else .ok .sdec

/-- Decode a command word: the reserved bits first, then the fields (rules R91, R94, R96). -/
def decode (w : BitVec 8) : Except IllegalWord Instr :=
  if fieldRSV w ≠ 0 then .error .reservedBits else decodeFields (fieldCIPH w) (fieldFN w)

/-- Whether a word is one of the six (rule R94). -/
def legalWord (w : BitVec 8) : Bool :=
  match decode w with
  | .ok _ => true
  | .error _ => false

/-- The cipher-select bit of a command: 0 Feistel, 1 SPN (rules R91, R92). -/
def ciphOf : Instr → BitVec 1
  | .fks => 0
  | .fenc => 0
  | .fdec => 0
  | .skx => 1
  | .senc => 1
  | .sdec => 1

/-- The function field of a command: 01 key schedule, 10 forward, 11 reverse (rules R91, R92). -/
def fnOf : Instr → BitVec 2
  | .fks => 0b01
  | .fenc => 0b10
  | .fdec => 0b11
  | .skx => 0b01
  | .senc => 0b10
  | .sdec => 0b11

/-- The command word of a command: `RSV` = 0, `CIPH`, `FN` (rules R91, R92). -/
def encode (i : Instr) : BitVec 8 := (0 : BitVec 5) ++ ciphOf i ++ fnOf i

/-- The host's numbering: the instruction the decoder reads from a word of `nbits` bits. A command is 8 bits (rule R90); the
bits above a shorter `nbits` are 0, and no command is longer. -/
def decodeTableWord (nbits w : Nat) : Option Instr :=
  if nbits ≤ 8 then
    match decode (BitVec.ofNat 8 (w % 2 ^ nbits)) with
    | .ok i => some i
    | .error _ => none
  else none

end Sys2Proof
end

