-- ==== Sys2Proof/Machine/Flags.lean ====
section
/-! DEFINITION. The flags (rules R23, R34): the two that are views of other state, the `STATUS` byte, and the read gates the
valid bits make (rules R29, R30, R31). There are no arithmetic condition codes (rule R34). -/

namespace Sys2Proof.Machine

/-- `BUSY`: a command is in progress, `PHASE ≠ IDLE` and `PHASE ≠ FAULT` (rule R23). Log entry 9 on `DECODE`. -/
def State.busy (s : State) : Bool :=
  match s.phase with
  | .idle => false
  | .decode => true
  | .fksRun => true
  | .fxRun => true
  | .skxRun => true
  | .sencRun => true
  | .sdecRun => true
  | .fault => false

/-- `ERRF`: 1 exactly when `ERR ≠ 0` (rule R23). -/
def State.errf (s : State) : Bool := s.err != 0

/-- `STATUS`: bit 5 `FATAL`, 4 `ERRF`, 3 `SKV`, 2 `FKV`, 1 `DV`, 0 `BUSY`; bits 7:6 read as 0 (rule R23). -/
def State.status (s : State) : BitVec 8 :=
  BitVec.ofBoolListBE [false, false, s.fatal, s.errf, s.skv, s.fkv, s.dv, s.busy]

/-- `DOUT` as the host reads it: `DOUT.raw` when `DV = 1`, else 0 (rule R29). -/
def State.doutRead (s : State) : Block128 := if s.dv then s.doutRaw else 0

/-- `FRK[i]`, 1 ≤ i ≤ 16, as the host reads it: gated by `FKV` (rule R30). -/
def State.frkRead (s : State) (i : Nat) : RoundKey := if s.fkv then s.frk.toList.getD (i - 1) 0 else 0

/-- `W[i]`, 0 ≤ i ≤ 43, as the host reads it: gated by `SKV` (rule R31). -/
def State.wRead (s : State) (i : Nat) : Word := if s.skv then s.w.toList.getD i 0 else 0

/-- The numeric code of an error kind (rule R221). -/
def ErrKind.code : ErrKind → BitVec 8
  | .invalidEncoding => 1
  | .invalidKeyLength => 2
  | .invalidBlockLength => 3
  | .tableLookupOutOfRange => 4
  | .illegalCommand => 5
  | .noSchedule => 6

end Sys2Proof.Machine
end

