-- ==== Sys2Proof/Machine/Ops.lean ====
section
/-! DEFINITION. The shared operations on the state: how a command ends (rules R10, R32, R229, R231), how it begins
(rules R33, R96), the two command shapes of rule R93, bank access by index (rules R30, R31, R225), and the reset event
(rules R250, R251). Raising an error is this hardware's exception entry; there is no return (rule R230). -/

namespace Sys2Proof.Machine

/-- The working registers' contents between two commands: free values, a fresh one each time (rule R32).
DESIGN CHOICE (log entry 1): they depend on the counter `n` alone, so two engine instances, or two runs, that have ended
equally many commands hold equal values; rule R32 leaves that open. Unsafe for a claim that compares two states. -/
def freeWork (n : Nat) : Work where
  c := Config.freeC n
  d := Config.freeD n
  l := Config.freeL n
  r := Config.freeR n
  st := Config.freeST n
  t := Config.freeT n
  dir := Config.freeDIR n

/-- Give up the working registers: from here on their contents are unspecified (rule R32). -/
def State.release (s : State) : State := { s with work := freeWork s.free, free := s.free + 1 }

/-- `raise E` for a kind that is not fatal: `ERR <- n` (so `ERRF = 1`), `PHASE <- IDLE`, `RND <- 0` (so `BUSY = 0`), nothing
else (rule R229). This is what taking an exception is here: nothing is saved and control goes nowhere. -/
def State.raise (s : State) (e : ErrKind) : State := { s with err := e.code, phase := .idle, rnd := 0 }

/-- A decoded command fails: `raise E`, and the working registers are given up (rules R32, R229). -/
def State.fail (s : State) (e : ErrKind) : State := (s.raise e).release

/-- `raise TableLookupOutOfRange`: `ERR <- 4`, `FATAL <- 1`, `PHASE <- FAULT`, `RND <- 0` (rule R231). Log entry 11. -/
def State.raiseFatal (s : State) : State :=
  { s with err := ErrKind.tableLookupOutOfRange.code, fatal := true, phase := .fault, rnd := 0 }.release

/-- A command succeeds: `ERR <- 0` (so `ERRF = 0`), `PHASE <- IDLE`, `RND <- 0` (rules R10, R24, R33). -/
def State.succeed (s : State) : State := { s with err := 0, phase := .idle, rnd := 0 }.release

/-- FKS writes its bank and sets `FKV` (rules R30, R141). -/
def State.installFrk (s : State) (b : FrkBank) : State := { s with frk := b, fkv := true }

/-- SKX writes its bank and sets `SKV` (rules R31, R183). -/
def State.installW (s : State) (b : WBank) : State := { s with w := b, skv := true }

/-- A transform writes its result and sets `DV` (rules R29, R147, R189). -/
def State.installDout (s : State) (r : Block128) : State := { s with doutRaw := r, dv := true }

/-- The first act of a transform command: `DV <- 0` (rules R147, R148, R189, R194). -/
def State.clearDv (s : State) : State := { s with dv := false }

/-- Go to a running phase with `RND` at its first value (rule R33). -/
def State.enter (s : State) (p : Phase) (r : BitVec 6) : State := { s with phase := p, rnd := r }

/-- The issue step has taken the word: `PHASE` is `DECODE` and `DIR` holds the word's bit 0 (rules R32, R33, R96). -/
def State.latch (s : State) (w : BitVec 8) : State :=
  { s with phase := .decode, work := { s.work with dir := w.getLsbD 0 } }

/-- The shape of a key-schedule command (rules R93, R141, R183): the length check, and only where it passes what the command
does. -/
def keyCommand (len : BitVec 16) (go : State → State) (s : State) : State :=
  if s.klen = len then go s else s.fail .invalidKeyLength

/-- The shape of a transform command (rules R93, R147, R189, R228): `DV <- 0`, the length check, the schedule check, and only
where both pass what the command does. -/
def transformCommand (len : BitVec 16) (valid : Bool) (go : State → State) (s : State) : State :=
  if s.blen = len then (if valid then go s.clearDv else s.clearDv.fail .noSchedule)
  else s.clearDv.fail .invalidBlockLength

/-- Bank access by index as the sequencer makes it: `FRK[i]`, none where `i` is outside 1..16 (rules R30, R225). -/
def State.frkAt (s : State) (i : Nat) : Option RoundKey := if 1 ≤ i then s.frk.toList[i - 1]? else none

/-- The reset event: exactly the reset state, whatever ran before (rules R250, R251). What belongs to the host and to the
model stays: its program, what it has got back, the reading, the count of free values. Log entry 8. -/
def State.afterReset (s : State) : State :=
  { State.reset with free := s.free, reading := s.reading, script := s.script, seen := s.seen }

/-- The host has got something back. -/
def State.log (s : State) (x : Seen) : State := { s with seen := x :: s.seen }

/-- The host's program from here on. -/
def State.continueWith (s : State) (p : List HostAction) : State := { s with script := p }

end Sys2Proof.Machine
end

