-- ==== Sys2Proof/Machine/Feistel.lean ====
section
/-! DEFINITION. The meanings of the Feistel commands FKS, FENC, FDEC, each the whole command (spec/42_feistel.md rules R141,
R147, R148). Their micro-steps are in Machine/Sequencer.lean. -/

namespace Sys2Proof.Machine

/-- `FKS`: `FRK[i] <- K_i` for i = 1..16, `FKV <- 1`, `ERR <- 0` (rules R141, R142). -/
def execFks (s : State) : Host.Outcome State Fault Refusal :=
  .next (keyCommand Config.feistelBits (fun s => (s.installFrk (feistelKS (feistelOperand s.key))).succeed) s)

/-- `FENC`: `DOUT.raw <- zext_128(FX(DIN[63:0], (FRK[1], …, FRK[16])))` (rule R147). -/
def execFenc (s : State) : Host.Outcome State Fault Refusal :=
  .next (transformCommand Config.feistelBits s.fkv
    (fun s => (s.installDout (feistelResult (feistelFX (feistelOperand s.din) s.frk))).succeed) s)

/-- `FDEC`: `DOUT.raw <- zext_128(FX(DIN[63:0], (FRK[16], …, FRK[1])))` (rule R148). -/
def execFdec (s : State) : Host.Outcome State Fault Refusal :=
  .next (transformCommand Config.feistelBits s.fkv
    (fun s => (s.installDout (feistelResult (feistelFX (feistelOperand s.din) (frkReversed s.frk)))).succeed) s)

end Sys2Proof.Machine
end

