-- ==== Sys2Proof/Machine/GaloisField.lean ====
section
/-! DEFINITION. The Galois-field multiplier, GF(2⁸) modulo 0x11B (spec/45_gf_multiplier.md). Addition is exclusive or
(rule R210). -/

namespace Sys2Proof.Machine

/-- `mulBy2`: shift left by 1 into 9 bits, exclusive or with 0x11B where bit 7 was set, keep 8 bits (rule R211, C7). -/
def mulBy2 (a : Byte) : Byte :=
  let t : BitVec 9 := a.setWidth 9 <<< 1
  (if a.getLsbD 7 then t ^^^ 0x11B else t).setWidth 8

/-- `mulBy3(a) = mulBy2(a) ⊕ a` (rule R212). -/
def mulBy3 (a : Byte) : Byte := mulBy2 a ^^^ a

/-- One iteration of the general multiplication: bit `n` of `b` decides whether the doubled `a` is accumulated (rule R213). -/
def gmulStep (b : Byte) (pa : Byte × Byte) (n : Nat) : Byte × Byte :=
  (if b.getLsbD n then pa.1 ^^^ pa.2 else pa.1, mulBy2 pa.2)

/-- `gmul(a, b)`: eight iterations, least significant bit of `b` first (rule R213). -/
def gmul (a b : Byte) : Byte := ([0, 1, 2, 3, 4, 5, 6, 7].foldl (gmulStep b) (0, a)).1

end Sys2Proof.Machine
end

