-- ==== Sys2Proof/Machine/SpnCipher.lean ====
section
/-! DEFINITION. The functions of the SPN engine (spec/44_spn.md): the key expansion `KX`, the four layers `SB`, `SR`, `MC`, `ARK`
and their inverses, the transforms `SE` and `SD`. The commands that use them are in Machine/Spn.lean. -/

namespace Sys2Proof.Machine

/-- `RotWord(w) = b1 ‖ b2 ‖ b3 ‖ b0` (rule R181). -/
def rotWord (w : Word) : Word := ofWordBytes (wordByte w 1) (wordByte w 2) (wordByte w 3) (wordByte w 0)

/-- `SubWord(w)`: the substitution box on each byte (rule R181). -/
def subWord (w : Word) : Word :=
  ofWordBytes (sboxByte (wordByte w 0)) (sboxByte (wordByte w 1)) (sboxByte (wordByte w 2)) (sboxByte (wordByte w 3))

/-- `RconWord(j)`: the round constant in the first byte (rule R181). -/
def rconWord (j : Nat) : Word := ofWordBytes (tabRCON.getD j 0) 0 0 0

/-- Word `i` of a bank. -/
def wAt (w : WBank) (i : Nat) : Word := w.toList.getD i 0

/-- The word `T` that is exclusive-ored with word `i - 4` to make word `i`, from word `i - 1` (rules R182, R183). -/
def kxT (prev : Word) (i : Nat) : Word := if i % 4 = 0 then subWord (rotWord prev) ^^^ rconWord (i / 4 - 1) else prev

/-- One pass of the expansion loop: write word `i` of the bank (rule R183). -/
def kxStep (w : WBank) (i : Nat) : WBank := w.setIfInBounds i (kxT (wAt w (i - 1)) i ^^^ wAt w (i - 4))

/-- The key's four words in places 0 to 3 of a bank (rules R65, R182, R183). -/
def kxLoad (w : WBank) (k : Block128) : WBank :=
  (((w.setIfInBounds 0 (wordOf k 0)).setIfInBounds 1 (wordOf k 1)).setIfInBounds 2 (wordOf k 2)).setIfInBounds 3 (wordOf k 3)

/-- `KX(k)`: the 44 words of the expanded key, word after word from word 4 (rule R182). They are 44 whatever the
key, and round key 0 is the key itself (rule R195 (c)). -/
def spnKX (k : Block128) : WBank := (List.range' 4 40).foldl kxStep (kxLoad (Vector.replicate 44 0) k)

/-- `SRK[r] = W[4r] ‖ W[4r+1] ‖ W[4r+2] ‖ W[4r+3]` (rule R31). -/
def srk (w : WBank) (r : Nat) : Block128 := wAt w (4 * r) ++ wAt w (4 * r + 1) ++ wAt w (4 * r + 2) ++ wAt w (4 * r + 3)

/-- `ARK(s, r) = s ⊕ SRK[r]` (rule R184). -/
def spnARK (w : WBank) (s : Block128) (r : Nat) : Block128 := s ^^^ srk w r

/-- `SB(s)`: the substitution box on every byte (rule R185). -/
def spnSB (s : Block128) : Block128 := ofBytes fun k => sboxByte (byteAt s k)

/-- `SR(s)`: row `r` shifted left by `r`, `SR(s).st[r][c] = s.st[r][(c + r) mod 4]` (rule R186). -/
def spnSR (s : Block128) : Block128 := ofBytes fun k => stAt s (k % 4) ((k / 4 + k % 4) % 4)

/-- One output byte of the column mix, `2·a_r ⊕ 3·a_{r+1} ⊕ a_{r+2} ⊕ a_{r+3}`, subscripts modulo 4 (rule R187). -/
def mcByte (a : Nat → Byte) (r : Nat) : Byte := mulBy2 (a r) ^^^ mulBy3 (a ((r + 1) % 4)) ^^^ a ((r + 2) % 4) ^^^ a ((r + 3) % 4)

/-- `MC(s)`: the column mix, each column by itself (rule R187). -/
def spnMC (s : Block128) : Block128 := ofBytes fun k => mcByte (fun r => stAt s r (k / 4)) (k % 4)

/-- `ISB(s)`: the inverse substitution box on every byte (rule R190). -/
def spnISB (s : Block128) : Block128 := ofBytes fun k => invSboxByte (byteAt s k)

/-- `ISR(s)`: row `r` shifted right by `r`, `ISR(s).st[r][c] = s.st[r][(c - r) mod 4]` (rule R191). -/
def spnISR (s : Block128) : Block128 := ofBytes fun k => stAt s (k % 4) ((k / 4 + 4 - k % 4) % 4)

/-- One output byte of the inverse column mix, `⊕_k gmul(INVMIX[(k - r) mod 4], a_k)` (rules R173, R192). -/
def imcByte (a : Nat → Byte) (r : Nat) : Byte :=
  gmul (tabINVMIX.getD ((4 - r) % 4) 0) (a 0) ^^^ gmul (tabINVMIX.getD ((5 - r) % 4) 0) (a 1) ^^^
  gmul (tabINVMIX.getD ((6 - r) % 4) 0) (a 2) ^^^ gmul (tabINVMIX.getD ((7 - r) % 4) 0) (a 3)

/-- `IMC(s)`: the inverse column mix, each column by itself (rule R192). -/
def spnIMC (s : Block128) : Block128 := ofBytes fun k => imcByte (fun r => stAt s r (k / 4)) (k % 4)

/-- A full forward round `r`: substitute, shift rows, mix columns, add the round key (rule R188). -/
def seRound (w : WBank) (s : Block128) (r : Nat) : Block128 := spnARK w (spnMC (spnSR (spnSB s))) r

/-- Round 10, which has no column mix (rule R188, C4). -/
def seLast (w : WBank) (s : Block128) : Block128 := spnARK w (spnSR (spnSB s)) 10

/-- `SE(b, w)`: the forward transform (rule R188), for fixed words a bijection whose inverse is `SD(·, w)` (rule R195 (a)). -/
def spnSE (b : Block128) (w : WBank) : Block128 :=
  seLast w ([1, 2, 3, 4, 5, 6, 7, 8, 9].foldl (seRound w) (spnARK w b 0))

/-- One reverse round `r` (9 down to 1) (rule R193). -/
def sdRound (w : WBank) (s : Block128) (r : Nat) : Block128 := spnIMC (spnARK w (spnISB (spnISR s)) r)

/-- The last reverse round, which has no inverse column mix (rule R193). -/
def sdLast (w : WBank) (s : Block128) : Block128 := spnARK w (spnISB (spnISR s)) 0

/-- `SD(b, w)`: the inverse transform, round keys in reverse (rule R193, D23), the inverse of `SE(·, w)` (rule R195 (a), (b)). -/
def spnSD (b : Block128) (w : WBank) : Block128 :=
  sdLast w ([9, 8, 7, 6, 5, 4, 3, 2, 1].foldl (sdRound w) (spnARK w b 10))

end Sys2Proof.Machine
end

