-- ==== Sys2Proof/Machine/Spn.lean ====
section
/-! DEFINITION. The meanings of the SPN commands SKX, SENC, SDEC, each the whole command (spec/44_spn.md rules R183, R189,
R194). Their micro-steps are in Machine/Sequencer.lean. -/

namespace Sys2Proof.Machine

/-- `SKX`: `W[i] <- w_i` for i = 0..43, `SKV <- 1`, `ERR <- 0` (rules R182, R183). -/
def execSkx (s : State) : Host.Outcome State Fault Refusal :=
  .next (keyCommand Config.spnBits (fun s => (s.installW (spnKX (spnOperand s.key))).succeed) s)

/-- `SENC`: `DOUT.raw <- SE(DIN[127:0], (W[0], …, W[43]))` (rule R189). -/
def execSenc (s : State) : Host.Outcome State Fault Refusal :=
  .next (transformCommand Config.spnBits s.skv (fun s => (s.installDout (spnSE (spnOperand s.din) s.w)).succeed) s)

/-- `SDEC`: `DOUT.raw <- SD(DIN[127:0], (W[0], …, W[43]))` (rule R194). -/
def execSdec (s : State) : Host.Outcome State Fault Refusal :=
  .next (transformCommand Config.spnBits s.skv (fun s => (s.installDout (spnSD (spnOperand s.din) s.w)).succeed) s)

end Sys2Proof.Machine
end

