-- ==== Sys2Proof/Machine/Sequencer.lean ====
section
/-! DEFINITION. The sequencer (rule R33): the issue micro-step of each command and its round micro-steps (rules R150, R151,
R196, R197, R198). A round index outside a command's range is the error `TableLookupOutOfRange` (rules R63, R225); log
entry 10. -/

namespace Sys2Proof.Machine

/-- Step 0 of FKS: `FKV <- 0`, load `(C, D)`, `PHASE <- FKS_RUN`, `RND <- 1` (rule R150). -/
def startFks (s : State) : State :=
  keyCommand Config.feistelBits
    (fun s =>
      { s with
        fkv := false
        work := { s.work with c := ksC0 (feistelOperand s.key), d := ksD0 (feistelOperand s.key) } }.enter .fksRun 1) s

/-- Step 0 of FENC and FDEC: load `(L, R)`, `PHASE <- FX_RUN`, `RND <- 1` (rule R151). -/
def startFx (s : State) : State :=
  transformCommand Config.feistelBits s.fkv
    (fun s =>
      { s with
        work := { s.work with
          l := (fxLoad (feistelOperand s.din)).1
          r := (fxLoad (feistelOperand s.din)).2 } }.enter .fxRun 1) s

/-- Step 0 of SKX: `SKV <- 0`, `W[0..3]` from `KEY`, `PHASE <- SKX_RUN`, `RND <- 4` (rule R196). -/
def startSkx (s : State) : State :=
  keyCommand Config.spnBits
    (fun s => { s with skv := false, w := kxLoad s.w (spnOperand s.key) }.enter .skxRun 4) s

/-- Step 0 of SENC: `ST <- ARK(DIN, 0)`, `PHASE <- SENC_RUN`, `RND <- 1` (rule R197). -/
def startSenc (s : State) : State :=
  transformCommand Config.spnBits s.skv
    (fun s => { s with work := { s.work with st := spnARK s.w (spnOperand s.din) 0 } }.enter .sencRun 1) s

/-- Step 0 of SDEC: `ST <- ARK(DIN, 10)`, `PHASE <- SDEC_RUN`, `RND <- 9` (rule R198). -/
def startSdec (s : State) : State :=
  transformCommand Config.spnBits s.skv
    (fun s => { s with work := { s.work with st := spnARK s.w (spnOperand s.din) 10 } }.enter .sdecRun 9) s

/-- The issue micro-step of a command (rules R96, R150, R151, R196, R197, R198). -/
def start (i : Instr) (s : State) : State :=
  match i with
  | .fks => startFks s
  | .fenc => startFx s
  | .fdec => startFx s
  | .skx => startSkx s
  | .senc => startSenc s
  | .sdec => startSdec s

/-- Step `RND` of FKS: rotate `C` and `D` by `SHIFT[RND]`, write `FRK[RND]`; the sixteenth ends the command (rule R150). -/
def stepFks (s : State) : State :=
  match tabRead .shift s.rnd.toNat with
  | none => s.raiseFatal
  | some n =>
    let c := rotl s.work.c n
    let d := rotl s.work.d n
    let s1 : State :=
      { s with work := { s.work with c := c, d := d }, frk := s.frk.setIfInBounds (s.rnd.toNat - 1) (ksCompress c d) }
    if s.rnd.toNat = Config.fRounds then { s1 with fkv := true }.succeed else { s1 with rnd := s.rnd + 1 }

/-- Step `RND` of FENC or FDEC: one round with `FRK[RND]` or `FRK[17 - RND]`; the sixteenth writes the result (rule R151). -/
def stepFx (s : State) : State :=
  match s.frkAt (if s.work.dir then 17 - s.rnd.toNat else s.rnd.toNat) with
  | none => s.raiseFatal
  | some k =>
    let lr := feistelRound s.rnd.toNat (s.work.l, s.work.r) k
    let s1 : State := { s with work := { s.work with l := lr.1, r := lr.2 } }
    if s.rnd.toNat = Config.fRounds then (s1.installDout (feistelResult (fxUnload lr))).succeed
    else { s1 with rnd := s.rnd + 1 }

/-- Step `RND` of SKX: write `W[RND]`; word 43 ends the command (rule R196). -/
def stepSkx (s : State) : State :=
  if 4 ≤ s.rnd.toNat ∧ s.rnd.toNat < Config.sWords then
    let s1 : State :=
      { s with work := { s.work with t := kxT (wAt s.w (s.rnd.toNat - 1)) s.rnd.toNat }, w := kxStep s.w s.rnd.toNat }
    if s.rnd.toNat + 1 = Config.sWords then { s1 with skv := true }.succeed else { s1 with rnd := s.rnd + 1 }
  else s.raiseFatal

/-- Step `RND` of SENC: rounds 1 to 9 full, round 10 without the column mix writes the result (rule R197). -/
def stepSenc (s : State) : State :=
  if s.rnd.toNat = 0 then s.raiseFatal
  else if s.rnd.toNat < Config.sRounds then
    { s with work := { s.work with st := seRound s.w s.work.st s.rnd.toNat }, rnd := s.rnd + 1 }
  else if s.rnd.toNat = Config.sRounds then (s.installDout (seLast s.w s.work.st)).succeed
  else s.raiseFatal

/-- Step `RND` of SDEC: rounds 9 to 1, then round 0 without the inverse column mix writes the result (rule R198). -/
def stepSdec (s : State) : State :=
  if s.rnd.toNat = 0 then (s.installDout (sdLast s.w s.work.st)).succeed
  else if s.rnd.toNat < Config.sRounds then
    { s with work := { s.work with st := sdRound s.w s.work.st s.rnd.toNat }, rnd := s.rnd - 1 }
  else s.raiseFatal

/-- One round micro-step of the running command; in the other phases the sequencer has no step (rules R20, R33). -/
def microStep (s : State) : State :=
  match s.phase with
  | .idle => s
  | .decode => s
  | .fksRun => stepFks s
  | .fxRun => stepFx s
  | .skxRun => stepSkx s
  | .sencRun => stepSenc s
  | .sdecRun => stepSdec s
  | .fault => s

/-- `n` micro-steps. -/
def microSteps : Nat → State → State
  | 0, s => s
  | n + 1, s => microSteps n (microStep s)

/-- The number of sequencer steps of a command whose validation passes, the issue step included (rule R261). -/
def stepCount : Instr → Nat
  | .fks => 17
  | .fenc => 17
  | .fdec => 17
  | .skx => 41
  | .senc => 11
  | .sdec => 11

end Sys2Proof.Machine
end

