-- ==== Sys2Proof/Machine/Issue.lean ====
section
/-! DEFINITION. Issue and dispatch: what a write to `CMD` does (rules R22, R96, R228), and the engine's own step. -/

namespace Sys2Proof.Machine

/-- Run or start a decoded command, as the run's reading says (rules R33, R261). Log entry 4. -/
def launch (i : Instr) (s : State) : Host.Outcome State Fault Refusal :=
  match s.reading with
  | .whole => exec i s
  | .stepwise => .next (start i s)

/-- The issue step on the word in `CMD`: refused in the fatal state, `IllegalCommand` for an illegal word, else `DIR <- w[0]`
and the command (rules R96, R227, R228, R231). -/
def issue (s : State) : Host.Outcome State Fault Refusal :=
  if s.fatal then .next s
  else
    match decode s.cmd with
    | .error _ => .next (s.raise .illegalCommand)
    | .ok i => launch i (s.latch s.cmd)

/-- `RegWrite(0, w)` when `BUSY = 0`: `CMD <- w`, then the issue step (rules R22, R96). -/
def writeCmd (w : BitVec 8) (s : State) : Host.Outcome State Fault Refusal := issue { s with cmd := w }

/-- The engine's next step: a micro-step of the running command; in `DECODE` the issue step goes on; an idle or stopped engine
has none and keeps its state (rules R20, R33, R238). Log entries 9 and 19. -/
def engineStep (s : State) : Host.Outcome State Fault Refusal :=
  match s.phase with
  | .idle => .next s
  | .decode => issue s
  | .fksRun => .next (microStep s)
  | .fxRun => .next (microStep s)
  | .skxRun => .next (microStep s)
  | .sencRun => .next (microStep s)
  | .sdecRun => .next (microStep s)
  | .fault => .next s

end Sys2Proof.Machine
end

