-- ==== Sys2Proof/WellFormed.lean ====
section
/-! DEFINITION. Which terms are well formed: every command (a command word has no operand field, rule R93), and exactly
those host accesses that move a whole register at its own width (rules R61, R67). -/

namespace Sys2Proof

/-- Every command is well formed: "A command word carries no immediate, no register number and no address" (rule R93). -/
def Instr.wellFormed (i : Instr) : Bool :=
  match i with
  | .fks => true
  | .fenc => true
  | .fdec => true
  | .skx => true
  | .senc => true
  | .sdec => true

/-- The width of the register at index `n`; none for a reserved index (rule R21). -/
def regWidth (n : Nat) : Option Nat :=
  if n ≤ 2 then some 8
  else if n ≤ 4 then some 16
  else if n ≤ 7 then some 128
  else if n ≤ 15 then none
  else if n ≤ 31 then some 48
  else if n ≤ 75 then some 32
  else none

/-- The width of a value; `zero` has none. -/
def RegVal.width : RegVal → Nat
  | .w8 _ => 8
  | .w16 _ => 16
  | .w32 _ => 32
  | .w48 _ => 48
  | .w128 _ => 128
  | .zero => 0

/-- A write moves a whole register: the value has the register's width; a reserved index has no width to miss
(rules R61, R67). -/
def writeWellFormed (n : Nat) (v : RegVal) : Bool :=
  match regWidth n with
  | some k => v.width == k
  | none => true

/-- A host action is well formed: its write, if it is one, is a whole-register access (rule R67). -/
def HostAction.wellFormed : HostAction → Bool
  | .rd _ => true
  | .wr n v => writeWellFormed n v
  | .cmd i => i.wellFormed
  | .reset => true
  | .engine => true
  | .wait => true
  | .ldKey _ => true
  | .ldBlk _ => true
  | .rdOut64 => true
  | .rdOut128 => true
  | .fKey _ => true
  | .sKey _ => true

end Sys2Proof
end

