-- ==== Sys2Proof/Machine/HostPort.lean ====
section
/-! DEFINITION. The host's side: register access (rules R21, R61), the hold rule (rule R72), the pseudo-instructions
(rule R98), and one event of a run (rule R262). -/

namespace Sys2Proof.Machine

/-- `RegRead(n)`: the whole register at index `n`, after its read gate; a reserved index reads as 0 (rules R21, R29 to R31,
R61). -/
def regRead (s : State) (n : Nat) : RegVal :=
  if n = 0 then .w8 s.cmd
  else if n = 1 then .w8 s.status
  else if n = 2 then .w8 s.err
  else if n = 3 then .w16 s.klen
  else if n = 4 then .w16 s.blen
  else if n = 5 then .w128 s.key
  else if n = 6 then .w128 s.din
  else if n = 7 then .w128 s.doutRead
  else if n < 16 then .zero
  else if n < 32 then .w48 (s.frkRead (n - 15))
  else if n < 76 then .w32 (s.wRead (n - 32))
  else .zero

/-- `RegWrite(n, v)` when it takes effect: `CMD` issues a command, `KLEN`, `BLEN`, `KEY`, `DIN` store, a read-only or reserved
index changes nothing (rules R21, R61, R68); a write that is not a whole-register access is refused (rule R67). Log entry 13. -/
def regWrite (s : State) (n : Nat) (v : RegVal) : Host.Outcome State Fault Refusal :=
  if writeWellFormed n v then
    match n, v with
    | 0, .w8 x => writeCmd x s
    | 3, .w16 x => .next { s with klen := x }
    | 4, .w16 x => .next { s with blen := x }
    | 5, .w128 x => .next { s with key := x }
    | 6, .w128 x => .next { s with din := x }
    | _, _ => .next s
  else .refused (.partialAccess n)

/-- The host reads index `n` and gets the value back. -/
def readBack (n : Nat) (s : State) : State := s.log (.value n (regRead s n))

/-- The lines of `LDKEY` or `LDBLK`: the value of the last min(n, 128) bits, zero-extended, to the operand register, then
min(n, 65535) to the length register (rule R98). -/
def loadLines (operand length : Nat) (t : Text) : Except ErrKind (List HostAction) :=
  match hexToBits t with
  | .error e => .error e
  | .ok b => .ok [.wr operand (.w128 (BitVec.ofNat 128 (seqValue b))), .wr length (.w16 (BitVec.ofNat 16 (min b.length 65535)))]

/-- A pseudo-instruction that loads an operand: its lines come next in the program; where its text is not hexadecimal it
ends with the error kind at the boundary and nothing of it is done (rules R98, R113, R222). Log entries 17 and 18. -/
def expand (operand length : Nat) (t : Text) (more rest : List HostAction) (s : State) : State :=
  match loadLines operand length t with
  | .error e => (s.log (.boundary e)).continueWith rest
  | .ok lines => s.continueWith (lines ++ more ++ rest)

/-- `RDOUT64`, `RDOUT128`: `RD DOUT`, then `bitsToHex` of the result's bits (rule R98). -/
def readText (bits : Block128 → BitSeq) (s : State) : Host.Outcome State Fault Refusal :=
  match bitsToHex (bits s.doutRead) with
  | .ok t => .next ((readBack 7 s).log (.text t))
  | .error r => .refused r

/-- The accesses the hold rule is about: every host access other than the `STATUS` read (rule R72). -/
def held : HostAction → Bool
  | .rd n => n != 1
  | .wr _ _ => true
  | .cmd _ => true
  | .reset => false
  | .engine => false
  | .wait => false
  | .ldKey _ => false
  | .ldBlk _ => false
  | .rdOut64 => true
  | .rdOut128 => true
  | .fKey _ => false
  | .sKey _ => false

/-- The host's entry `a` takes effect, with `rest` after it (rules R97, R98, R250, R262). -/
def takeEffect (a : HostAction) (rest : List HostAction) (s : State) : Host.Outcome State Fault Refusal :=
  match a with
  | .rd n => .next (readBack n (s.continueWith rest))
  | .wr n v => regWrite (s.continueWith rest) n v
  | .cmd i => writeCmd (encode i) (s.continueWith rest)
  | .reset => .next (s.continueWith rest).afterReset
  | .engine => engineStep (s.continueWith rest)
  | .wait => .next (readBack 1 (s.continueWith (if s.busy then .engine :: .wait :: rest else rest)))
  | .ldKey t => .next (expand 5 3 t [] rest s)
  | .ldBlk t => .next (expand 6 4 t [] rest s)
  | .rdOut64 => readText (fun v => seqOf (feistelOperand v)) (s.continueWith rest)
  | .rdOut128 => readText seqOf (s.continueWith rest)
  | .fKey t => .next (expand 5 3 t [.cmd .fks] rest s)
  | .sKey t => .next (expand 5 3 t [.cmd .skx] rest s)

/-- The hold rule: while `BUSY = 1` a host access other than the `STATUS` read does not take effect and stays where it is, and
the engine takes its next step instead (rules R72, R262). -/
def perform (a : HostAction) (rest : List HostAction) (s : State) : Host.Outcome State Fault Refusal :=
  if held a && s.busy then engineStep s else takeEffect a rest s

/-- One event of a run: the host's next entry, or, where its program has ended, the engine's own next step (rule R262). -/
def hostStep (s : State) : Host.Outcome State Fault Refusal :=
  match s.script with
  | [] => engineStep s
  | a :: rest => perform a rest s

/-- Put a command word where the next step takes it: the next entry of the host's program is `WR CMD` with it, and the engine is
idle, not stopped, and reads commands whole, so that the very next step runs it. Log entry 5. -/
def placeWord (s : State) (w : BitVec 8) : State :=
  { s with script := .wr 0 (.w8 w) :: s.script, phase := .idle, rnd := 0, fatal := false, reading := .whole }

end Sys2Proof.Machine
end

