-- ==== Sys2Proof/Machine/Step.lean ====
section
/-! DEFINITION. One step of the machine: one event of a run (rule R262). -/

namespace Sys2Proof.Machine

/-- One event: a host access taking effect, a sequencer step or a reset (rule R262). -/
def step (s : State) : Host.Outcome State Fault Refusal := hostStep s

/-- `s` with the command word `w` placed as the host's next write to `CMD`; the bits above `nbits` are 0 (rules R74, R90). Log
entry 5. -/
def State.withFetchWord (s : State) (nbits w : Nat) : State := placeWord s (BitVec.ofNat 8 (w % 2 ^ nbits))

end Sys2Proof.Machine
end

