-- ==== Sys2Proof/Machine/Instances.lean ====
section
/-! DEFINITION. Several engine instances side by side (rules R5, R75, R236): each has its own registers, banks, sequencer and
host; only the constant tables are common. Their number `N_INST` is open, a positive integer with default 1 (D18). -/

namespace Sys2Proof.Machine

/-- `N_INST` engine instances, at least one by its shape, since `N_INST` is a positive integer (rule R5). -/
structure System where
  /-- Instance 0, which always exists. -/
  first : State
  /-- Instances 1 to `N_INST - 1`. -/
  others : List State
deriving DecidableEq, Repr

/-- All instances in order; `N_INST` is the length. -/
def System.engines (y : System) : List State := y.first :: y.others

/-- The system with instance `k` in another state; where there is no instance `k`, the same system. -/
def System.setEngine (y : System) (k : Nat) (s : State) : System :=
  match k with
  | 0 => { y with first := s }
  | j + 1 => { y with others := y.others.set j s }

/-- All instances in the reset state, independently; `N_INST` is an argument, a positive integer (rules R5, R236, R252).
DESIGN CHOICE (log entries 1, 2, 3): every instance's counter of free values starts at 0 and its working registers at zero,
so instances that have ended equally many commands hold equal working registers, which rule R32 leaves open. -/
def System.reset (nInst : ℕ+ := Config.defaultInstances) : System :=
  { first := State.reset, others := List.replicate (nInst.val - 1) State.reset }

/-- The state of an instance after a step of its own: the next state, or the same where it stops. Log entry 15. -/
def State.stepped (s : State) : State :=
  match step s with
  | .next t => t
  | .fault _ => s
  | .refused _ => s

/-- Instance `k` takes one step; where there is none, nothing moves (rule R75). -/
def System.stepAt (y : System) (k : Nat) : System :=
  match y.engines[k]? with
  | none => y
  | some s => y.setEngine k s.stepped

/-- An interleaving of the instances' steps: which instance moves, one entry a step (rule R75). -/
def System.run (y : System) (order : List Nat) : System := order.foldl System.stepAt y

/-- One instance alone, `n` steps, staying where it stops. -/
def runAlone : Nat → State → State
  | 0, s => s
  | n + 1, s => runAlone n s.stepped

end Sys2Proof.Machine
end

