-- ==== Sys2Proof/Safety.lean ====
section
/-! DEFINITION. What a run never leaves: the consistency of the sequencer, the flags and `ERR` (rules R23, R24, R33, R231), and
the integrity of the two schedule banks (rules R30, R31, R37); and what counts as a safe state (rules R225, R231). -/

namespace Sys2Proof.Machine

/-- The engine is not in the fatal state: "it is never a final state of a correct execution" (rule R231). -/
def State.Safe (s : State) : Prop := s.fatal = false ∧ s.phase ≠ .fault

/-- The word that the host's next entry writes to `CMD`, if it is such a write (rules R22, R97). -/
def State.nextWord (s : State) : Option (BitVec 8) :=
  match s.script with
  | .wr 0 (.w8 x) :: _ => some x
  | .cmd i :: _ => some (encode i)
  | _ => none

/-- The step issues a transform or goes on with one (rules R29, R147, R148, R189, R194). -/
def State.transforms (s : State) : Prop :=
  s.phase = .fxRun ∨ s.phase = .sencRun ∨ s.phase = .sdecRun ∨
    ∃ x i, s.nextWord = some x ∧ decode x = .ok i ∧ (i = .fenc ∨ i = .fdec ∨ i = .senc ∨ i = .sdec)

/-- What holds of `RND` and the valid bits in each phase between two steps (rules R23, R33, R150, R151, R196 to R198). -/
def State.PhaseOk (s : State) : Prop :=
  match s.phase with
  | .idle => s.rnd = 0
  | .decode => False
  | .fksRun => 1 ≤ s.rnd.toNat ∧ s.rnd.toNat ≤ 16 ∧ s.fkv = false
  | .fxRun => 1 ≤ s.rnd.toNat ∧ s.rnd.toNat ≤ 16 ∧ s.fkv = true ∧ s.dv = false
  | .skxRun => 4 ≤ s.rnd.toNat ∧ s.rnd.toNat ≤ 43 ∧ s.skv = false
  | .sencRun => 1 ≤ s.rnd.toNat ∧ s.rnd.toNat ≤ 10 ∧ s.skv = true ∧ s.dv = false
  | .sdecRun => s.rnd.toNat ≤ 9 ∧ s.skv = true ∧ s.dv = false
  | .fault => False

/-- The error codes an engine that never goes fatal leaves in `ERR` (rules R24, R221, R225, I6). -/
def State.ErrOk (s : State) : Prop := s.err = 0 ∨ s.err = 2 ∨ s.err = 3 ∨ s.err = 5 ∨ s.err = 6

/-- The engine between two steps of a run: not fatal, `RND` in its phase's range, `ERR` one of its codes. -/
def State.Inv (s : State) : Prop := s.fatal = false ∧ s.PhaseOk ∧ s.ErrOk

/-- A valid Feistel bank is the schedule of some key; a running FKS has written the round keys before `RND` and holds that
round's halves (rules R30, R37, R150). -/
def State.FrkOk (s : State) : Prop :=
  (s.fkv = true → ∃ k : Block64, s.frk = feistelKS k) ∧
  (s.phase = .fksRun →
    ∃ k : Block64, s.work.c = ksRotated (ksC0 k) (s.rnd.toNat - 1) ∧ s.work.d = ksRotated (ksD0 k) (s.rnd.toNat - 1) ∧
      ∀ j, j < s.rnd.toNat - 1 → s.frk.toList.getD j 0 = ksRoundKey k (j + 1))

/-- A valid SPN bank is the expansion of some key; a running SKX has written the words before `RND` (rules R31, R37, R196). -/
def State.WOk (s : State) : Prop :=
  (s.skv = true → ∃ k : Block128, s.w = spnKX k) ∧
  (s.phase = .skxRun → ∃ k : Block128, ∀ j, j < s.rnd.toNat → wAt s.w j = wAt (spnKX k) j)

/-- The invariant of a run with the schedules: every bank the engine calls valid is a whole schedule of one key. -/
def State.SessionInv (s : State) : Prop := s.Inv ∧ s.FrkOk ∧ s.WOk

end Sys2Proof.Machine
end

