-- ==== Sys2Proof/Certificates/Slice0/Obligations.lean ====
section
/-! DEFINITION. The statements for the provers. Each docstring names the rules of spec/ it formalises, or says that it rests on
a choice of the model and names the log entry. -/

open Sys2Proof Sys2Proof.Machine

/-! ### Encoding -/

/-- Rules R92, R94: the six words, written out from R92's binary column, decode to their commands, and each of the other 250 words
is illegal, for its function field (0x00, 0x04) or for its reserved bits (0x08 to 0xFF). -/
def Obligations.SixWordsDecodeAndTheOthersAreIllegal : Prop :=
  (decode 0b00000001 = .ok .fks ∧ decode 0b00000010 = .ok .fenc ∧ decode 0b00000011 = .ok .fdec ∧
   decode 0b00000101 = .ok .skx ∧ decode 0b00000110 = .ok .senc ∧ decode 0b00000111 = .ok .sdec) ∧
  (decode 0x00 = .error .reservedFunction ∧ decode 0x04 = .error .reservedFunction) ∧
  ∀ x : BitVec 8, 0x08 ≤ x → decode x = .error .reservedBits

/-- Rules R90, R92: decode and encode agree in both directions, so each command has exactly one word. -/
def Obligations.DecodeAndEncodeAgree : Prop :=
  (∀ i : Instr, decode (encode i) = .ok i) ∧ (∀ (x : BitVec 8) (i : Instr), decode x = .ok i → encode i = x)

/-! ### Reset -/

/-- Rules R38, R251: the register, flag, bank and sequencer values after reset, and what every index then reads as. The
working registers, which the spec leaves unspecified, are left out. -/
def Obligations.ResetStateIsAllZero : Prop :=
  State.reset.cmd = 0 ∧ State.reset.status = 0 ∧ State.reset.err = 0 ∧ State.reset.klen = 0 ∧ State.reset.blen = 0 ∧
  State.reset.key = 0 ∧ State.reset.din = 0 ∧ State.reset.doutRaw = 0 ∧
  State.reset.dv = false ∧ State.reset.fkv = false ∧ State.reset.skv = false ∧ State.reset.fatal = false ∧
  (∀ i : Fin 16, State.reset.frk[i] = 0) ∧ (∀ i : Fin 44, State.reset.w[i] = 0) ∧
  State.reset.phase = .idle ∧ State.reset.rnd = 0 ∧ ∀ n : Nat, (regRead State.reset n).toNat = 0

/-- Rules R250, R251: a reset from any state, a running command, the fatal state and a half-written bank among them, gives the
reset state. That the host's program goes on and its record stays is the model's choice (log entry 8). -/
def Obligations.ResetFromAnyStateGivesResetState : Prop :=
  ∀ (s : State) (rest : List HostAction), s.script = .reset :: rest →
    ∃ t : State, step s = .next t ∧ t.cmd = 0 ∧ t.status = 0 ∧ t.err = 0 ∧ t.klen = 0 ∧ t.blen = 0 ∧ t.key = 0 ∧ t.din = 0 ∧
      t.doutRaw = 0 ∧ t.dv = false ∧ t.fkv = false ∧ t.skv = false ∧ t.fatal = false ∧
      (∀ i : Fin 16, t.frk[i] = 0) ∧ (∀ i : Fin 44, t.w[i] = 0) ∧ t.phase = .idle ∧ t.rnd = 0 ∧
      t.script = rest ∧ t.seen = s.seen

/-! ### The register interface -/

/-- Rule R21 with the read gates of R29, R30, R31: what each index reads as. -/
def Obligations.RegisterReadMap : Prop :=
  ∀ s : State,
    regRead s 0 = .w8 s.cmd ∧ regRead s 1 = .w8 s.status ∧ regRead s 2 = .w8 s.err ∧ regRead s 3 = .w16 s.klen ∧
    regRead s 4 = .w16 s.blen ∧ regRead s 5 = .w128 s.key ∧ regRead s 6 = .w128 s.din ∧
    regRead s 7 = .w128 (if s.dv then s.doutRaw else 0) ∧
    (∀ n, 8 ≤ n → n ≤ 15 → (regRead s n).toNat = 0) ∧
    (∀ i : Fin 16, regRead s (16 + i.val) = .w48 (if s.fkv then s.frk[i] else 0)) ∧
    (∀ i : Fin 44, regRead s (32 + i.val) = .w32 (if s.skv then s.w[i] else 0)) ∧
    (∀ n, 76 ≤ n → (regRead s n).toNat = 0)

/-- Rule R23: the six fields of `STATUS` and its two zero bits. -/
def Obligations.StatusBits : Prop :=
  ∀ s : State,
    (s.status.getLsbD 0 = true ↔ s.phase ≠ .idle ∧ s.phase ≠ .fault) ∧ s.status.getLsbD 1 = s.dv ∧
    s.status.getLsbD 2 = s.fkv ∧ s.status.getLsbD 3 = s.skv ∧ (s.status.getLsbD 4 = true ↔ s.err ≠ 0) ∧
    s.status.getLsbD 5 = s.fatal ∧ s.status.getLsbD 6 = false ∧ s.status.getLsbD 7 = false

/-- Rule R68: a read gives the register's value and changes nothing; rule R72: a `STATUS` read is never held. -/
def Obligations.ReadsChangeNothing : Prop :=
  ∀ (s : State) (n : Nat) (rest : List HostAction), s.script = .rd n :: rest → (s.busy = false ∨ n = 1) →
    step s = .next { s with script := rest, seen := .value n (regRead s n) :: s.seen }

/-- Rules R25 to R28, R61, R68: a write to `KLEN`, `BLEN`, `KEY` or `DIN` stores the whole value and does nothing else. -/
def Obligations.OperandWritesStore : Prop :=
  ∀ (s : State) (rest : List HostAction), s.busy = false →
    (∀ x, s.script = .wr 3 (.w16 x) :: rest → step s = .next { s with klen := x, script := rest }) ∧
    (∀ x, s.script = .wr 4 (.w16 x) :: rest → step s = .next { s with blen := x, script := rest }) ∧
    (∀ x, s.script = .wr 5 (.w128 x) :: rest → step s = .next { s with key := x, script := rest }) ∧
    (∀ x, s.script = .wr 6 (.w128 x) :: rest → step s = .next { s with din := x, script := rest })

/-- Rule R21: a write to a read-only or reserved index is ignored. A read-only register's value comes at its width, a reserved
index takes any value (log entry 13). -/
def Obligations.ReadOnlyAndReservedWritesIgnored : Prop :=
  ∀ (s : State) (n : Nat) (v : RegVal) (rest : List HostAction), s.busy = false → s.script = .wr n v :: rest →
    (n = 1 ∨ n = 2 ∨ n = 7 ∨ 8 ≤ n) → (∀ k, regWidth n = some k → v.width = k) → step s = .next { s with script := rest }

/-- Rules R61, R67: a write whose value has not the register's width is no whole-register access and is refused. -/
def Obligations.PartialWritesRefused : Prop :=
  ∀ (s : State) (n k : Nat) (v : RegVal) (rest : List HostAction), s.busy = false → s.script = .wr n v :: rest →
    regWidth n = some k → v.width ≠ k → step s = .refused (.partialAccess n)

/-! ### Ordering and the hold rule -/

/-- Rule R72: while `BUSY = 1`, a host access other than the `STATUS` read is held: the step is the engine's own, and the
access, the program and what the host has seen stay as they are. -/
def Obligations.HoldRule : Prop :=
  ∀ (s : State) (a : HostAction) (rest : List HostAction), s.busy = true → s.script = a :: rest →
    ((∃ n, n ≠ 1 ∧ a = .rd n) ∨ (∃ n v, a = .wr n v) ∨ (∃ i, a = .cmd i) ∨ a = .rdOut64 ∨ a = .rdOut128) →
    step s = engineStep s ∧ ∃ t, step s = .next t ∧ t.script = s.script ∧ t.seen = s.seen

/-- Rules R71, R72, R261: in the stepwise reading, a command, issued by `CMD` or by `WR CMD`, with a held access behind it takes its
`stepCount` steps where its validation passes and one where it fails; then the engine is idle, the access is still next, and the
state is the one the whole reading gives in one step, so the access sees the command's final results. The two readings are the
model's choice (log entry 4); that they agree on the unspecified working registers too rests on log entry 1. -/
def Obligations.HeldAccessSeesFinalResults : Prop :=
  ∀ (s t : State) (i : Instr) (a : HostAction) (rest : List HostAction), s.phase = .idle → s.fatal = false →
    s.reading = .whole → (s.script = .cmd i :: a :: rest ∨ s.script = .wr 0 (.w8 (encode i)) :: a :: rest) → held a = true →
    step s = .next t →
    t.busy = false ∧ t.script = a :: rest ∧
    Host.Core.run Sys2Proof.core (if t.err = 0 then stepCount i else 1) { s with reading := .stepwise } =
      .next { t with reading := .stepwise }

/-! ### Issue and dispatch -/

/-- A step runs the decoded instruction (rules R22, R96): a write of a legal word to `CMD` of an engine that is neither busy nor
stopped stores the word, latches `DIR`, and executes the command; in the stepwise reading it takes the command's issue
micro-step. -/
def Obligations.CmdWriteRunsTheDecodedCommand : Prop :=
  ∀ (s : State) (x : BitVec 8) (i : Instr) (rest : List HostAction), s.busy = false → s.fatal = false →
    decode x = .ok i → (s.script = .wr 0 (.w8 x) :: rest ∨ (s.script = .cmd i :: rest ∧ x = encode i)) →
    (s.reading = .whole →
      step s = exec i
        { s with cmd := x, script := rest, phase := .decode, work := { s.work with dir := x.getLsbD 0 } }) ∧
    (s.reading = .stepwise →
      step s = .next (start i
        { s with cmd := x, script := rest, phase := .decode, work := { s.work with dir := x.getLsbD 0 } }))

/-- Rule R227: a word with `RSV ≠ 0` or `FN = 00` written to `CMD` of an idle engine: `CMD` holds it, `ERR <- 5` (and so
`ERRF`), and nothing else changes. -/
def Obligations.IllegalWordChangesOnlyCmdAndErr : Prop :=
  ∀ (s : State) (x : BitVec 8) (rest : List HostAction), s.phase = .idle → s.rnd = 0 → s.fatal = false →
    s.script = .wr 0 (.w8 x) :: rest → (x.extractLsb' 3 5 ≠ 0 ∨ x.extractLsb' 0 2 = 0) →
    step s = .next { s with cmd := x, err := 5, script := rest }

/-- Rules R228 (order 1), R231: in the fatal state a write to `CMD` stores the word and does nothing else, and only reset leaves
the state: until then `ERR`, the valid bits, the banks and `DOUT.raw` keep their values. -/
def Obligations.OnlyResetLeavesTheFatalState : Prop :=
  (∀ (s : State) (x : BitVec 8) (rest : List HostAction), s.phase = .fault → s.fatal = true →
    s.script = .wr 0 (.w8 x) :: rest → step s = .next { s with cmd := x, script := rest }) ∧
  (∀ s t : State, s.phase = .fault → s.fatal = true → step s = .next t → s.script.head? ≠ some .reset →
    t.phase = .fault ∧ t.fatal = true ∧ t.err = s.err ∧ t.dv = s.dv ∧ t.fkv = s.fkv ∧ t.skv = s.skv ∧ t.frk = s.frk ∧
    t.w = s.w ∧ t.doutRaw = s.doutRaw)

/-- Rule R231: what `raise TableLookupOutOfRange` does, seen where the model raises it, a round index outside the command's
range (log entry 10, the model's choice); the valid bit the command had cleared stays 0. -/
def Obligations.OutOfRangeIndexIsFatal : Prop :=
  ∀ s : State,
    ((s.phase = .fksRun ∧ (s.rnd = 0 ∨ 16 < s.rnd.toNat)) ∨ (s.phase = .fxRun ∧ (s.rnd = 0 ∨ 16 < s.rnd.toNat)) ∨
     (s.phase = .skxRun ∧ (s.rnd.toNat < 4 ∨ 43 < s.rnd.toNat)) ∨ (s.phase = .sencRun ∧ (s.rnd = 0 ∨ 10 < s.rnd.toNat)) ∨
     (s.phase = .sdecRun ∧ 9 < s.rnd.toNat)) →
    ∃ t wk n, engineStep s = .next t ∧
      t = { s with err := 4, fatal := true, phase := .fault, rnd := 0, work := wk, free := n } ∧ t.busy = false

/-! ### What each command does -/

/-- Rules R140, R141, R142: FKS with `KLEN = 64` writes `FRK[i] = perm(PC2, rotl(C_0, s_i mod 28) ‖ rotl(D_0, s_i mod 28))` with
`s_i` the running total of the shift counts (table of rule R127), sets `FKV`, clears `ERR`, and changes nothing else but the
sequencer and the unspecified working registers. -/
def Obligations.FksWritesTheKeySchedule : Prop :=
  ∀ s : State, s.klen = 64 →
    ∃ (b : FrkBank) (wk : Work) (n : Nat),
      exec .fks s = .next { s with frk := b, fkv := true, err := 0, phase := .idle, rnd := 0, work := wk, free := n } ∧
      ∀ (i : Fin 16) (c0 d0 : Half28), c0 ++ d0 = perm 56 tabPC1 (s.key.extractLsb' 0 64) →
        b[i] = perm 48 tabPC2
          (rotl c0 (([1, 2, 4, 6, 8, 10, 12, 14, 15, 17, 19, 21, 23, 25, 27, 28].getD i.val 0) % 28) ++
           rotl d0 (([1, 2, 4, 6, 8, 10, 12, 14, 15, 17, 19, 21, 23, 25, 27, 28].getD i.val 0) % 28))

/-- Rules R147, R148: FENC and FDEC with `BLEN = 64` and a valid bank; FDEC is the same transform with `FRK[17 - i]` in round
i. -/
def Obligations.FencAndFdecTransformTheBlock : Prop :=
  ∀ s : State, s.blen = 64 → s.fkv = true →
    (∃ (wk : Work) (n : Nat),
      exec .fenc s = .next
        { s with doutRaw := (feistelFX (s.din.extractLsb' 0 64) s.frk).setWidth 128, dv := true, err := 0, phase := .idle,
                 rnd := 0, work := wk, free := n }) ∧
    (∃ (kr : FrkBank) (wk : Work) (n : Nat),
      (∀ i : Fin 16, kr[i] = s.frk[15 - i.val]) ∧
      exec .fdec s = .next
        { s with doutRaw := (feistelFX (s.din.extractLsb' 0 64) kr).setWidth 128, dv := true, err := 0, phase := .idle,
                 rnd := 0, work := wk, free := n })

/-- Rules R145, R146: the block transform through its sixteen pairs of halves; no swap in round 16. -/
def Obligations.FeistelTransformByRounds : Prop :=
  ∀ (b : Block64) (ks : FrkBank),
    ∃ l r : Nat → Half32,
      l 0 ++ r 0 = perm 64 tabIP b ∧
      (∀ i, (h : i < 15) → l (i + 1) = r i ∧ r (i + 1) = l i ^^^ feistelF (r i) ks[i]) ∧
      l 16 = l 15 ^^^ feistelF (r 15) ks[15] ∧ r 16 = r 15 ∧
      feistelFX b ks = perm 64 tabFP (l 16 ++ r 16)

/-- Rules R181, R182, R183, R195 (c): SKX with `KLEN = 128` writes the 44 words of the recurrence, sets `SKV`, clears `ERR`, and
changes nothing else but the sequencer and the unspecified working registers; round key 0 is the key; `SubWord` substitutes each
byte by a `TabRead` of the substitution box. -/
def Obligations.SkxWritesTheKeyExpansion : Prop :=
  (∀ (w : Word) (j : Nat), j < 4 →
    tabRead .sbox (w.extractLsb' (24 - 8 * j) 8).toNat = some ((subWord w).extractLsb' (24 - 8 * j) 8).toNat) ∧
  ∀ s : State, s.klen = 128 →
    ∃ (b : WBank) (wk : Work) (n : Nat),
      exec .skx s = .next { s with w := b, skv := true, err := 0, phase := .idle, rnd := 0, work := wk, free := n } ∧
      b[0] ++ b[1] ++ b[2] ++ b[3] = s.key ∧ srk b 0 = s.key ∧
      ∀ (i : Nat) (h : i < 44), 4 ≤ i →
        b[i] = (if i % 4 = 0 then subWord (rotl b[i - 1] 8) ^^^ ((tabRCON.getD (i / 4 - 1) 0) ++ (0 : BitVec 24))
                else b[i - 1]) ^^^ b[i - 4]

/-- Rules R189, R194: SENC and SDEC with `BLEN = 128` and a valid bank. -/
def Obligations.SencAndSdecTransformTheBlock : Prop :=
  ∀ s : State, s.blen = 128 → s.skv = true →
    (∃ (wk : Work) (n : Nat),
      exec .senc s = .next
        { s with doutRaw := spnSE s.din s.w, dv := true, err := 0, phase := .idle, rnd := 0, work := wk, free := n }) ∧
    (∃ (wk : Work) (n : Nat),
      exec .sdec s = .next
        { s with doutRaw := spnSD s.din s.w, dv := true, err := 0, phase := .idle, rnd := 0, work := wk, free := n })

/-- Rules R185, R186, R187: the forward layers, byte by byte; the column mix by doubling and tripling, and through the matrix of
rule R173 with the general multiplier. -/
def Obligations.ForwardLayersByteByByte : Prop :=
  ∀ s : Block128,
    (∀ k, k < 16 → tabRead .sbox (byteAt s k).toNat = some (byteAt (spnSB s) k).toNat) ∧
    (∀ r c, r < 4 → c < 4 → stAt (spnSR s) r c = stAt s r ((c + r) % 4)) ∧
    (∀ r c, r < 4 → c < 4 → stAt (spnMC s) r c =
      mulBy2 (stAt s r c) ^^^ mulBy3 (stAt s ((r + 1) % 4) c) ^^^ stAt s ((r + 2) % 4) c ^^^ stAt s ((r + 3) % 4) c) ∧
    (∀ r c, r < 4 → c < 4 → stAt (spnMC s) r c =
      gmul (tabMIX.getD ((4 - r) % 4) 0) (stAt s 0 c) ^^^ gmul (tabMIX.getD ((5 - r) % 4) 0) (stAt s 1 c) ^^^
      gmul (tabMIX.getD ((6 - r) % 4) 0) (stAt s 2 c) ^^^ gmul (tabMIX.getD ((7 - r) % 4) 0) (stAt s 3 c))

/-- Rules R190, R191, R192: the inverse layers, byte by byte; the coefficients of the first matrix row are 14, 11, 13, 9. -/
def Obligations.InverseLayersByteByByte : Prop :=
  ∀ s : Block128,
    (∀ k, k < 16 → tabRead .invsbox (byteAt s k).toNat = some (byteAt (spnISB s) k).toNat) ∧
    (∀ r c, r < 4 → c < 4 → stAt (spnISR s) r ((c + r) % 4) = stAt s r c) ∧
    (∀ r c, r < 4 → c < 4 → stAt (spnIMC s) r c =
      gmul 14 (stAt s r c) ^^^ gmul 11 (stAt s ((r + 1) % 4) c) ^^^ gmul 13 (stAt s ((r + 2) % 4) c) ^^^
      gmul 9 (stAt s ((r + 3) % 4) c))

/-- Rules R31, R188, R193: the two transforms through their round states, with the order of layers and no mix in the last round;
round key `r` is the words `4r` to `4r + 3` of the bank. The order of the layers of `SD` is one of several that the spec allows
(D23). -/
def Obligations.SpnTransformsByRounds : Prop :=
  ∀ (b : Block128) (w : WBank),
    (∀ (r : Nat) (h : r < 11), srk w r = w[4 * r] ++ w[4 * r + 1] ++ w[4 * r + 2] ++ w[4 * r + 3]) ∧
    (∃ s : Nat → Block128, s 0 = b ^^^ srk w 0 ∧
      (∀ r, r < 9 → s (r + 1) = spnMC (spnSR (spnSB (s r))) ^^^ srk w (r + 1)) ∧
      spnSE b w = spnSR (spnSB (s 9)) ^^^ srk w 10) ∧
    (∃ s : Nat → Block128, s 10 = b ^^^ srk w 10 ∧
      (∀ r, 1 ≤ r → r < 10 → s r = spnIMC (spnISB (spnISR (s (r + 1))) ^^^ srk w r)) ∧
      spnSD b w = spnISB (spnISR (s 1)) ^^^ srk w 0)

/-! ### Errors -/

/-- Rule R223: a key command with the wrong `KLEN` changes nothing but `ERR` (and so `ERRF`); there is no other check, so with
the right one it succeeds. -/
def Obligations.WrongKeyLengthFails : Prop :=
  ∀ s : State,
    (s.klen ≠ 64 → ∃ (wk : Work) (n : Nat),
      exec .fks s = .next { s with err := 2, phase := .idle, rnd := 0, work := wk, free := n }) ∧
    (s.klen ≠ 128 → ∃ (wk : Work) (n : Nat),
      exec .skx s = .next { s with err := 2, phase := .idle, rnd := 0, work := wk, free := n }) ∧
    (s.klen = 64 → ∃ t, exec .fks s = .next t ∧ t.err = 0) ∧ (s.klen = 128 → ∃ t, exec .skx s = .next t ∧ t.err = 0)

/-- Rule R224: a transform with the wrong `BLEN` changes nothing but `DV` and `ERR`, whether or not a schedule is there. -/
def Obligations.WrongBlockLengthFails : Prop :=
  ∀ (s : State) (i : Instr),
    ((i = .fenc ∨ i = .fdec) ∧ s.blen ≠ 64 ∨ (i = .senc ∨ i = .sdec) ∧ s.blen ≠ 128) →
    ∃ (wk : Work) (n : Nat),
      exec i s = .next { s with dv := false, err := 3, phase := .idle, rnd := 0, work := wk, free := n }

/-- Rule R226: a transform with the right `BLEN` and no valid bank of its cipher changes nothing but `DV` and `ERR`. -/
def Obligations.MissingScheduleFails : Prop :=
  ∀ (s : State) (i : Instr),
    ((i = .fenc ∨ i = .fdec) ∧ s.blen = 64 ∧ s.fkv = false ∨ (i = .senc ∨ i = .sdec) ∧ s.blen = 128 ∧ s.skv = false) →
    ∃ (wk : Work) (n : Nat),
      exec i s = .next { s with dv := false, err := 6, phase := .idle, rnd := 0, work := wk, free := n }

/-! ### Frames and whole-machine rules -/

/-- Rules R22, R25 to R28, R37: every command completes, and none touches the operand registers, `CMD`, `FATAL`, the other
cipher's bank, or the host's side; key commands do not touch `DOUT`. -/
def Obligations.CommandFrame : Prop :=
  ∀ (i : Instr) (s : State), ∃ t, exec i s = .next t ∧
    t.cmd = s.cmd ∧ t.klen = s.klen ∧ t.blen = s.blen ∧ t.key = s.key ∧ t.din = s.din ∧ t.fatal = s.fatal ∧
    t.script = s.script ∧ t.seen = s.seen ∧ t.reading = s.reading ∧ t.busy = false ∧
    (i ≠ .fks → t.frk = s.frk ∧ t.fkv = s.fkv) ∧ (i ≠ .skx → t.w = s.w ∧ t.skv = s.skv) ∧
    (i = .fks ∨ i = .skx → t.doutRaw = s.doutRaw ∧ t.dv = s.dv)

/-- Rules R22, R25 to R28: over any step of the machine, `CMD`, `KLEN`, `BLEN`, `KEY` and `DIN` change only by a host write to
that register or by reset: the engine never writes them. -/
def Obligations.EngineNeverWritesOperands : Prop :=
  ∀ s t : State, step s = .next t → s.script.head? ≠ some .reset →
    (t.klen ≠ s.klen → ∃ x, s.script.head? = some (.wr 3 (.w16 x))) ∧
    (t.blen ≠ s.blen → ∃ x, s.script.head? = some (.wr 4 (.w16 x))) ∧
    (t.key ≠ s.key → ∃ x, s.script.head? = some (.wr 5 (.w128 x))) ∧
    (t.din ≠ s.din → ∃ x, s.script.head? = some (.wr 6 (.w128 x))) ∧
    (t.cmd ≠ s.cmd → (∃ x, s.script.head? = some (.wr 0 (.w8 x))) ∨ ∃ i, s.script.head? = some (.cmd i))

/-- Rules R30, R31, R37: over any step between whose ends no issue is half done, a bank entry changes only by its own key
command or by reset; no transform and no host write changes one. -/
def Obligations.BanksChangeOnlyByTheirKeyCommand : Prop :=
  ∀ s t : State, s.phase ≠ .decode → step s = .next t → s.script.head? ≠ some .reset →
    (t.frk ≠ s.frk → s.phase = .fksRun ∨ s.script.head? = some (.cmd .fks) ∨ s.script.head? = some (.wr 0 (.w8 0x01))) ∧
    (t.w ≠ s.w → s.phase = .skxRun ∨ s.script.head? = some (.cmd .skx) ∨ s.script.head? = some (.wr 0 (.w8 0x05)))

/-- Rules R36, R27, R141, R183: a key command's bank, valid bit and error are a function of `KLEN` and of the key bits it reads
(63:0 for FKS) alone, where it succeeds; the working registers and everything else do not matter. -/
def Obligations.KeyCommandsDependOnKeyAlone : Prop :=
  ∀ s s' t t' : State, s.klen = s'.klen →
    (s.key.extractLsb' 0 64 = s'.key.extractLsb' 0 64 → exec .fks s = .next t → exec .fks s' = .next t' →
      t.err = t'.err ∧ (t.err = 0 → t.frk = t'.frk ∧ t.fkv = t'.fkv)) ∧
    (s.key = s'.key → exec .skx s = .next t → exec .skx s' = .next t' →
      t.err = t'.err ∧ (t.err = 0 → t.w = t'.w ∧ t.skv = t'.skv))

/-- Rules R36, R66, R147(d), R255: what a transform leaves in `ERR`, `DV` and `DOUT` is a function of `BLEN`, its bank, its valid
bit and the block bits it reads (63:0 for the Feistel engine); `KEY` and the working registers do not matter. -/
def Obligations.TransformsDependOnBlockAndBankAlone : Prop :=
  ∀ (s s' t t' : State) (i : Instr), s.blen = s'.blen → exec i s = .next t → exec i s' = .next t' →
    ((i = .fenc ∨ i = .fdec) ∧ s.din.extractLsb' 0 64 = s'.din.extractLsb' 0 64 ∧ s.frk = s'.frk ∧ s.fkv = s'.fkv ∨
     (i = .senc ∨ i = .sdec) ∧ s.din = s'.din ∧ s.w = s'.w ∧ s.skv = s'.skv) →
    t.err = t'.err ∧ t.dv = t'.dv ∧ regRead t 7 = regRead t' 7

/-! ### Laws of the ciphers -/

/-- Rules R9, R11, R120: output position q of a permutation is input position T[q]. -/
def Obligations.PermutationCopiesPositions : Prop :=
  ∀ (n m : Nat) (T : List Nat) (v : BitVec n), T.length = m →
    ∀ q, 1 ≤ q → q ≤ m → pos (perm m T v) q = pos v (T.getD (q - 1) 0)

/-- Rule R122: `perm(FP, perm(IP, v, 64), 64) = v`, and the other way round. -/
def Obligations.FinalPermutationInvertsInitial : Prop :=
  ∀ v : Block64, perm 64 tabFP (perm 64 tabIP v) = v ∧ perm 64 tabIP (perm 64 tabFP v) = v

/-- Rule R149 (c), (d): the schedule does not depend on the eight parity positions, and after sixteen rounds each half is back at
its start. -/
def Obligations.KeyScheduleIgnoresParityAndReturns : Prop :=
  (∀ k m : Block64, m &&& 0xFEFEFEFEFEFEFEFE = 0 → feistelKS (k ^^^ m) = feistelKS k) ∧
  (∀ h : Half28, ksRotated h 16 = h)

/-- Rule R149 (a): for every block and every sixteen keys the transform with the keys reversed undoes the transform, and the
other way round. -/
def Obligations.FeistelRoundTrip : Prop :=
  ∀ (b : Block64) (ks kr : FrkBank), (∀ i : Fin 16, kr[i] = ks[15 - i.val]) →
    feistelFX (feistelFX b ks) kr = b ∧ feistelFX (feistelFX b kr) ks = b

/-- Rules R171, R173, R190, R191, R192: the byte substitution, the row shift and the column mix are undone by their inverses, in
both orders; inverse row shift and inverse substitution commute. -/
def Obligations.SpnLayersAndInversesCancel : Prop :=
  ∀ s : Block128, spnISB (spnSB s) = s ∧ spnSB (spnISB s) = s ∧ spnISR (spnSR s) = s ∧ spnSR (spnISR s) = s ∧
    spnIMC (spnMC s) = s ∧ spnMC (spnIMC s) = s ∧ spnISR (spnISB s) = spnISB (spnISR s)

/-- Rule R195 (a): for every block and every 44 words each transform undoes the other. -/
def Obligations.SpnRoundTrip : Prop :=
  ∀ (b : Block128) (w : WBank), spnSD (spnSE b w) w = b ∧ spnSE (spnSD b w) w = b

/-- Rules R149 (a), (b) and R195 (a), (b) at the command interface: FENC then FDEC, and SENC then SDEC, with the result written
back to `DIN`, give the block back, under any valid bank. -/
def Obligations.DecryptCommandUndoesEncryptCommand : Prop :=
  (∀ s t u : State, s.blen = 64 → s.fkv = true → exec .fenc s = .next t → exec .fdec { t with din := t.doutRaw } = .next u →
    regRead u 7 = .w128 ((s.din.extractLsb' 0 64).setWidth 128) ∧ u.err = 0) ∧
  (∀ s t u : State, s.blen = 128 → s.skv = true → exec .senc s = .next t → exec .sdec { t with din := t.doutRaw } = .next u →
    regRead u 7 = .w128 s.din ∧ u.err = 0)

/-- Rules R210 to R214 (b), (d): the multiplier is a commutative product that distributes over exclusive or, with identity 1 and
absorbing element 0; doubling and tripling are products by 2 and 3. -/
def Obligations.FieldMultiplicationLaws : Prop :=
  (∀ a b : Byte, gmul a b = gmul b a) ∧ (∀ a b c : Byte, gmul a (b ^^^ c) = gmul a b ^^^ gmul a c) ∧
  (∀ a : Byte, gmul a 1 = a ∧ gmul a 0 = 0 ∧ gmul 2 a = mulBy2 a ∧ gmul 3 a = mulBy3 a) ∧
  (∀ a b : Byte, mulBy2 a = mulBy2 b → a = b)

/-- Rule R214 (b), (c): the multiplication is associative, and every non-zero byte has exactly one inverse. -/
def Obligations.FieldMultiplicationAssociativeWithInverses : Prop :=
  (∀ a b c : Byte, gmul (gmul a b) c = gmul a (gmul b c)) ∧
  (∀ a : Byte, a ≠ 0 → ∃ b : Byte, gmul a b = 1 ∧ ∀ c : Byte, gmul a c = 1 → c = b)

/-- Rules R170, R175: every entry of the substitution box is the affine map of the multiplicative inverse, with `inv(0) = 0`, and
no entry is a fixed point or an opposite fixed point. -/
def Obligations.SubstitutionBoxIsAffineOfInverse : Prop :=
  (∀ x y : Byte, (gmul x y = 1 ∨ (x = 0 ∧ y = 0)) →
    sboxByte x = y ^^^ rotl y 1 ^^^ rotl y 2 ^^^ rotl y 3 ^^^ rotl y 4 ^^^ 0x63) ∧
  (∀ x : Byte, sboxByte x ≠ x ∧ sboxByte x ≠ x ^^^ 0xFF)

/-- Rules R62, R63: `TabRead` gives an entry exactly on a table's index range, as R62 lists it, of the table's entry width: a
position of the input, a shift of 1 or 2, 4 bits or 8. -/
def Obligations.TableReadsHaveTheirRange : Prop :=
  (∀ (T : Rom) (i : Nat), (tabRead T i).isSome ↔ T.base ≤ i ∧ i < T.base + T.entries.length) ∧
  (Rom.ip.entries.length = 64 ∧ Rom.fp.entries.length = 64 ∧ Rom.e.entries.length = 48 ∧ Rom.p.entries.length = 32 ∧
   Rom.pc1.entries.length = 56 ∧ Rom.pc2.entries.length = 48 ∧ Rom.shift.entries.length = 16 ∧
   (∀ j, (Rom.s j).entries.length = 64) ∧ Rom.sbox.entries.length = 256 ∧ Rom.invsbox.entries.length = 256 ∧
   Rom.rcon.entries.length = 10 ∧ Rom.mix.entries.length = 4 ∧ Rom.invmix.entries.length = 4) ∧
  (∀ (T : Rom) (first last low high : Nat),
    (T, first, last, low, high) ∈
      [(Rom.ip, 1, 64, 1, 64), (.fp, 1, 64, 1, 64), (.e, 1, 48, 1, 32), (.p, 1, 32, 1, 32), (.pc1, 1, 56, 1, 64),
       (.pc2, 1, 48, 1, 56), (.shift, 1, 16, 1, 2), (.s 0, 0, 63, 0, 15), (.s 1, 0, 63, 0, 15), (.s 2, 0, 63, 0, 15),
       (.s 3, 0, 63, 0, 15), (.s 4, 0, 63, 0, 15), (.s 5, 0, 63, 0, 15), (.s 6, 0, 63, 0, 15), (.s 7, 0, 63, 0, 15),
       (.sbox, 0, 255, 0, 255), (.invsbox, 0, 255, 0, 255), (.rcon, 0, 9, 0, 255), (.mix, 0, 3, 0, 255),
       (.invmix, 0, 3, 0, 255)] →
    (∀ i, (tabRead T i).isSome ↔ first ≤ i ∧ i ≤ last) ∧ ∀ i v, tabRead T i = some v → low ≤ v ∧ v ≤ high)

/-- Rules R136, R137, R143, R144: the S-layer's lookups are `TabRead`s of the group's box at `16·row + col`, never out of range;
output nibble `j` of `SL(x)` (counted from 0, the most significant) is the lookup of group `j` of `x`; the round function expands by
`E`, adds the round key, applies `SL` and permutes by `P`; each row of each box is a permutation of 0..15. -/
def Obligations.FeistelBoxLookupsAreInRange : Prop :=
  (∀ (j : Fin 8) (g : BitVec 6),
    tabRead (.s j) (16 * (2 * (g.getLsbD 5).toNat + (g.getLsbD 0).toNat) + (g.extractLsb' 1 4).toNat) =
      some (sboxOut (j.val + 1) g).toNat) ∧
  (∀ (x : BitVec 48) (j : Fin 8) (g : BitVec 6), g = x.extractLsb' (42 - 6 * j.val) 6 →
    tabRead (.s j) (16 * (2 * (g.getLsbD 5).toNat + (g.getLsbD 0).toNat) + (g.extractLsb' 1 4).toNat) =
      some ((feistelSL x).extractLsb' (28 - 4 * j.val) 4).toNat) ∧
  (∀ (r : Half32) (k : RoundKey), feistelF r k = perm 32 tabP (feistelSL (perm 48 tabE r ^^^ k))) ∧
  (∀ (j : Fin 8), ∀ row ∈ sboxTable (j.val + 1), ∀ x : BitVec 4, x ∈ row)

/-! ### The sequencer refines the whole commands -/

/-- Rules R141, R150, R261: where the length is right, FKS's issue step and its sixteen micro-steps compose to the whole
command, and the engine is busy in every state between. That the unspecified working registers agree too is the model's choice (log
entry 1). -/
def Obligations.FksMicroStepsComposeToTheCommand : Prop :=
  ∀ s t : State, s.klen = 64 → exec .fks s = .next t →
    microSteps 16 (start .fks s) = t ∧ ∀ n, n < 16 → (microSteps n (start .fks s)).busy = true

/-- Rules R147, R148, R151, R261: where the checks pass, the issue step and the sixteen micro-steps of FENC or FDEC compose to
the whole command, `DIR` being the word's bit 0; the engine is busy between. That the unspecified working registers agree too is the
model's choice (log entry 1). -/
def Obligations.FeistelMicroStepsComposeToTheTransform : Prop :=
  ∀ (s t : State) (i : Instr), (i = .fenc ∨ i = .fdec) → s.blen = 64 → s.fkv = true →
    s.work.dir = (encode i).getLsbD 0 → exec i s = .next t →
    microSteps 16 (start i s) = t ∧ ∀ n, n < 16 → (microSteps n (start i s)).busy = true

/-- Rules R183, R196, R261: where the length is right, SKX's issue step and its forty micro-steps compose to the whole command,
whatever the bank held; the engine is busy between. That the unspecified working registers agree too is the model's choice (log
entry 1). -/
def Obligations.SkxMicroStepsComposeToTheCommand : Prop :=
  ∀ s t : State, s.klen = 128 → exec .skx s = .next t →
    microSteps 40 (start .skx s) = t ∧ ∀ n, n < 40 → (microSteps n (start .skx s)).busy = true

/-- Rules R189, R194, R197, R198, R261: where the checks pass, the issue step and the ten micro-steps of SENC or SDEC compose to
the whole command; the engine is busy between. That the unspecified working registers agree too is the model's choice (log
entry 1). -/
def Obligations.SpnMicroStepsComposeToTheTransform : Prop :=
  ∀ (s t : State) (i : Instr), (i = .senc ∨ i = .sdec) → s.blen = 128 → s.skv = true → exec i s = .next t →
    microSteps 10 (start i s) = t ∧ ∀ n, n < 10 → (microSteps n (start i s)).busy = true

/-- Rule R261: a command whose validation fails ends in its issue step, with the whole command's state. That the unspecified
working registers agree too is the model's choice (log entry 1). -/
def Obligations.FailedValidationTakesOneStep : Prop :=
  ∀ (i : Instr) (s t : State), exec i s = .next t → t.err ≠ 0 → start i s = t ∧ t.busy = false

/-! ### Invariants and liveness -/

/-- `Inv` holds after reset (rules R38, R251). -/
def Obligations.ResetSatisfiesTheInvariants : Prop := State.reset.Inv ∧ State.reset.SessionInv

/-- Every step keeps `Inv`: the engine is not fatal, `RND` stays in its phase's range with the valid bits as the phase has them,
`ERR` stays one of 0, 2, 3, 5, 6 (rules R23, R24, R33, R225). -/
def Obligations.EveryStepKeepsTheSequencerInvariant : Prop :=
  ∀ s t : State, s.Inv → step s = .next t → t.Inv

/-- Every step keeps `SessionInv`: a bank whose valid bit is set is the whole schedule of one key (rules R30, R31, R37). -/
def Obligations.EveryStepKeepsTheBanksWhole : Prop :=
  ∀ s t : State, s.SessionInv → step s = .next t → t.SessionInv

/-- Rules R225, R231: no run from a state of the invariant, reset among them, ever reaches the fatal state. -/
def Obligations.NoRunReachesTheFatalState : Prop :=
  ∀ (n : Nat) (s t : State), s.Inv → Host.Core.run Sys2Proof.core n s = .next t → t.Safe

/-- Rules R20, R72, R261: a busy engine ends its command within forty micro-steps, with no help from the host. -/
def Obligations.BusyEngineEndsWithinFortySteps : Prop :=
  ∀ s : State, s.Inv → s.busy = true → ∃ n, n ≤ 40 ∧ (microSteps n s).phase = .idle ∧ (microSteps n s).err = 0

/-! ### The Codec -/

/-- Rules R110, R111, R113, R116 (a), (c): the 22 digits and their values, in the order of R110's table; a digit gives its four
bits, high bit first; `InvalidEncoding` exactly where a character is none of the 22; four bits a digit; texts concatenate. -/
def Obligations.HexToBitsLaws : Prop :=
  (∀ (c : Char) (d : BitVec 4), hexDigit c = some d ↔
    (c, d) ∈
      [('0', 0b0000), ('4', 0b0100), ('8', 0b1000), ('C', 0b1100), ('c', 0b1100), ('1', 0b0001), ('5', 0b0101), ('9', 0b1001),
       ('D', 0b1101), ('d', 0b1101), ('2', 0b0010), ('6', 0b0110), ('A', 0b1010), ('a', 0b1010), ('E', 0b1110), ('e', 0b1110),
       ('3', 0b0011), ('7', 0b0111), ('B', 0b1011), ('b', 0b1011), ('F', 0b1111), ('f', 0b1111)]) ∧
  (∀ t : Text, hexToBits t = .error .invalidEncoding ↔ ∃ c ∈ t, hexDigit c = none) ∧
  (∀ (t : Text) (b : BitSeq), hexToBits t = .ok b → b.length = 4 * t.length) ∧
  (∀ (t u : Text) (b c : BitSeq), hexToBits t = .ok b → hexToBits u = .ok c → hexToBits (t ++ u) = .ok (b ++ c)) ∧
  hexToBits [] = .ok [] ∧
  (∀ (c : Char) (d : BitVec 4), hexDigit c = some d →
    hexToBits [c] = .ok [d.getLsbD 3, d.getLsbD 2, d.getLsbD 1, d.getLsbD 0])

/-- Rules R112, R116 (d): `bitsToHex` inverts `hexToBits` up to letter case, `hexToBits` inverts `bitsToHex` on its domain, and
off its domain the call is refused. -/
def Obligations.CodecRoundTrip : Prop :=
  (∀ (t : Text) (b : BitSeq), hexToBits t = .ok b → bitsToHex b = .ok (t.map Char.toUpper)) ∧
  (∀ b : BitSeq, b.length % 4 = 0 → ∃ t, bitsToHex b = .ok t ∧ hexToBits t = .ok b ∧ t.length = b.length / 4) ∧
  (∀ b : BitSeq, b.length % 4 ≠ 0 → bitsToHex b = .error .notWholeDigits)

/-- Rules R98, R113, R222: `LDKEY` and `LDBLK` put their two writes next in the program, `FKEY` and `SKEY` their command after
them; where the text is not hexadecimal each ends with `InvalidEncoding`, nothing of the engine changes, and nothing of the entry is
left in the program, the command of `FKEY` and `SKEY` included (log entry 17). `WAIT` reads `STATUS` and, while `BUSY = 1`, reads it
again after a sequencer step (log entry 16). That an expansion takes a step of its own is the model's choice (log entry 18). -/
def Obligations.LoadKeyExpandsOrFailsAtTheBoundary : Prop :=
  (∀ (s : State) (x : Text) (a : HostAction) (operand length : Nat) (more rest : List HostAction),
    (a, operand, length, more) ∈
      [(.ldKey x, 5, 3, []), (.ldBlk x, 6, 4, []), (.fKey x, 5, 3, [.cmd .fks]), (.sKey x, 5, 3, [.cmd .skx])] →
    s.script = a :: rest →
    (∀ b, hexToBits x = .ok b →
      step s = .next { s with script := .wr operand (.w128 (BitVec.ofNat 128 (seqValue b))) ::
                                        .wr length (.w16 (BitVec.ofNat 16 (min (4 * x.length) 65535))) :: (more ++ rest) }) ∧
    ((∃ c ∈ x, hexDigit c = none) →
      step s = .next { s with script := rest, seen := .boundary .invalidEncoding :: s.seen })) ∧
  (∀ (s : State) (rest : List HostAction), s.script = .wait :: rest →
    step s = .next { s with script := if s.busy then .engine :: .wait :: rest else rest
                            seen := .value 1 (.w8 s.status) :: s.seen })

/-- Rules R98, R112: `RDOUT64` and `RDOUT128` on an engine that is not busy give the value of `DOUT` and the text that spells its
low 64 bits, or all its bits; they are never refused and change nothing of the engine. -/
def Obligations.ReadDoutAsText : Prop :=
  ∀ (s : State) (rest : List HostAction), s.busy = false →
    (s.script = .rdOut64 :: rest → ∃ x : Text, hexToBits x = .ok (seqOf (s.doutRead.extractLsb' 0 64)) ∧ x.length = 16 ∧
      step s = .next { s with script := rest, seen := .text x :: .value 7 (.w128 s.doutRead) :: s.seen }) ∧
    (s.script = .rdOut128 :: rest → ∃ x : Text, hexToBits x = .ok (seqOf s.doutRead) ∧ x.length = 32 ∧
      step s = .next { s with script := rest, seen := .text x :: .value 7 (.w128 s.doutRead) :: s.seen })

/-! ### Several instances -/

/-- Rules R5, R75, R236: `N_INST` instances, a positive number with default 1, start in the reset state; any interleaving of their
steps gives each instance the state it reaches alone, and their number stays. That an instance whose step is refused stays where it
is, and the system with it, is the model's choice (log entry 15). -/
def Obligations.InstancesDoNotInterfere : Prop :=
  (∀ (y : System) (order : List Nat) (k : Nat) (s : State), y.engines[k]? = some s →
    (y.run order).engines[k]? = some (runAlone (order.count k) s)) ∧
  (∀ (y : System) (order : List Nat), 1 ≤ y.engines.length ∧ (y.run order).engines.length = y.engines.length) ∧
  (∀ n : ℕ+, (System.reset n).engines.length = n.val ∧ ∀ s ∈ (System.reset n).engines, s = State.reset) ∧
  (System.reset).engines.length = 1

/-! ### Results and errors -/

/-- Rules R24, R29, R257: over any step that is no reset and between whose ends no issue is half done, `DOUT.raw` changes only where
a transform succeeds, `DV` only where one is issued or runs, and `ERR` only where a command ends; and a command that ends writes
`ERR`, with 0 or, in the middle of a loop, 4 (which no run reaches), and at issue with 0, 2, 3, 5 or 6. -/
def Obligations.ResultAndErrorChangeOnlyByCommands : Prop :=
  ∀ s t : State, s.phase ≠ .decode → step s = .next t → s.script.head? ≠ some .reset →
    (t.doutRaw ≠ s.doutRaw → s.transforms ∧ t.dv = true ∧ t.err = 0 ∧ t.busy = false) ∧
    (t.dv ≠ s.dv → s.transforms) ∧
    (t.err ≠ s.err → t.busy = false ∧ (s.busy = true ∨ s.nextWord.isSome = true)) ∧
    (s.busy = true → t.busy = false → t.err = 0 ∨ t.err = 4) ∧
    (s.busy = false → s.fatal = false → s.nextWord.isSome = true → t.busy = false → t.ErrOk)
end

