-- ==== Sys2Proof/Laws/Codec.lean ====
section
/-! SUPPORT. Laws of the Codec (rules R110 to R112): the digit table read both ways, and the text's bits digit by digit. -/

namespace Sys2Proof.Machine

/-- Every four bits have an upper-case digit, which reads back as them (rules R110, R112). -/
theorem hexDigit_upperDigit : ∀ d : BitVec 4, hexDigit (upperDigit d) = some d := by decide

/-- A digit is one of a row of the table (rule R110). -/
theorem hexDigit_eq_some {c : Char} {d : BitVec 4} :
    hexDigit c = some d ↔ ∃ row, tabHEXDIGIT.find? (fun row => row.1 == c || row.2.1 == c) = some row ∧ row.2.2 = d := by
  simp [hexDigit]

/-- The bits of a text with a digit in front. -/
theorem hexBits_cons (c : Char) (t : Text) (d : BitVec 4) (b : BitSeq) (hd : hexDigit c = some d) (hb : hexBits t = some b) :
    hexBits (c :: t) = some (seqOf d ++ b) := by
  simp [hexBits, hd, hb]

/-- A text with a digit in front that has bits: the digit's four, then the rest's (rule R111). -/
theorem hexBits_cons_eq_some {c : Char} {t : Text} {b : BitSeq} (h : hexBits (c :: t) = some b) :
    ∃ d rest, hexDigit c = some d ∧ hexBits t = some rest ∧ b = seqOf d ++ rest := by
  unfold hexBits at h
  split at h
  · rename_i d rest hd hr
    exact ⟨d, rest, hd, hr, by injection h with h; exact h.symm⟩
  · cases h

/-- `hexToBits` gives bits exactly where the digits do. -/
theorem hexToBits_eq_ok {t : Text} {b : BitSeq} : hexToBits t = .ok b ↔ hexBits t = some b := by
  unfold hexToBits
  cases hexBits t <;> simp

/-- `hexToBits` raises `InvalidEncoding` exactly where the digits give no bits (rule R113). -/
theorem hexToBits_eq_error {t : Text} {e : ErrKind} : hexToBits t = .error e ↔ hexBits t = none ∧ e = .invalidEncoding := by
  unfold hexToBits
  cases hexBits t <;> simp [eq_comm]

/-- The bits of four bits, high bit first. -/
theorem seqOf_four (d : BitVec 4) : seqOf d = [d.getLsbD 3, d.getLsbD 2, d.getLsbD 1, d.getLsbD 0] := rfl

end Sys2Proof.Machine
end

