-- ==== Sys2Proof/Laws/Operands.lean ====
section
/-! SUPPORT. Laws of the operand forms: a permutation copies positions (rule R11), and a 128-bit value is its sixteen bytes
(rules R8, R65). -/

namespace Sys2Proof.Machine

/-- The number a permutation folds up: bit `i` from the right is the entry `i` from the end of the table. -/
theorem perm_fold_testBit {n : Nat} (v : BitVec n) (T : List Nat) (i : Nat) (h : i < T.length) :
    (T.foldl (fun acc p => 2 * acc + (pos v p).toNat) 0).testBit i = pos v (T.getD (T.length - 1 - i) 0) := by
  induction T using List.reverseRecOn generalizing i with
  | nil => simp at h
  | append_singleton T p ih =>
    rw [List.foldl_append]
    simp only [List.foldl_cons, List.foldl_nil, List.length_append, List.length_singleton]
    cases i with
    | zero => cases hb : pos v p <;> simp [Nat.testBit_zero, hb] 
    | succ j =>
      have hj : j < T.length := by simpa using h
      rw [Nat.testBit_succ]
      have : (2 * T.foldl (fun acc p => 2 * acc + (pos v p).toNat) 0 + (pos v p).toNat) / 2 =
          T.foldl (fun acc p => 2 * acc + (pos v p).toNat) 0 := by
        have := Bool.toNat_lt (pos v p); omega
      rw [this, ih j hj]
      have h2 : T.length + 1 - 1 - (j + 1) = T.length - 1 - j := by omega
      rw [h2, List.getD_eq_getElem?_getD, List.getD_eq_getElem?_getD, List.getElem?_append_left (by omega)]

/-- Two values with the same bit at every position are equal. -/
theorem eq_of_pos {n : Nat} {a b : BitVec n} (h : ∀ q, 1 ≤ q → q ≤ n → pos a q = pos b q) : a = b := by
  apply BitVec.eq_of_getLsbD_eq
  intro i hi
  have := h (n - i) (by omega) (by omega)
  simpa [pos, show n - (n - i) = i by omega] using this

/-- A byte above the last one of `x ‖ y` is a byte of `x`. -/
theorem extract_append_above {n : Nat} (x : BitVec n) (y : Byte) (i : Nat) (h : 8 ≤ i) :
    (x ++ y).extractLsb' i 8 = x.extractLsb' (i - 8) 8 := by
  apply BitVec.eq_of_getLsbD_eq
  intro j hj
  simp only [BitVec.getLsbD_extractLsb', BitVec.getLsbD_append]
  rw [if_neg (by omega), show i + j - 8 = i - 8 + j by omega]

/-- The last byte of `x ‖ y` is `y`. -/
theorem extract_append_last {n : Nat} (x : BitVec n) (y : Byte) : (x ++ y).extractLsb' 0 8 = y := by
  apply BitVec.eq_of_getLsbD_eq
  intro j hj
  simp only [BitVec.getLsbD_extractLsb', BitVec.getLsbD_append]
  rw [if_pos (by omega)]; simp [hj]

/-- Byte `k` of a value put together from bytes. -/
theorem byteAt_ofBytes (f : Nat → Byte) (k : Nat) (h : k < 16) : byteAt (ofBytes f) k = f k := by
  unfold byteAt ofBytes
  interval_cases k <;> simp (disch := decide) only [extract_append_above, Nat.reduceMul, Nat.reduceSub] <;>
    first | exact extract_append_last _ _ | exact BitVec.extractLsb'_eq_self

/-- Two 128-bit values with the same sixteen bytes are equal. -/
theorem eq_of_byteAt {a b : Block128} (h : ∀ k, k < 16 → byteAt a k = byteAt b k) : a = b := by
  apply BitVec.eq_of_getLsbD_eq
  intro i hi
  have := congrArg (fun x : Byte => x.getLsbD (i % 8)) (h (15 - i / 8) (by omega))
  simp only [byteAt, BitVec.getLsbD_extractLsb'] at this
  have e : 120 - 8 * (15 - i / 8) + i % 8 = i := by omega
  rw [e] at this
  simpa [Nat.mod_lt] using this

/-- Entry `(r, c)` of a value put together from bytes. -/
theorem stAt_ofBytes (f : Nat → Byte) (r c : Nat) (hr : r < 4) (hc : c < 4) : stAt (ofBytes f) r c = f (r + 4 * c) :=
  byteAt_ofBytes f _ (by omega)

/-- Exclusive or acts byte by byte. -/
theorem byteAt_xor (a b : Block128) (k : Nat) : byteAt (a ^^^ b) k = byteAt a k ^^^ byteAt b k := by
  apply BitVec.eq_of_getLsbD_eq
  intro i hi
  simp [byteAt, BitVec.getLsbD_extractLsb', Bool.and_xor_distrib_left]

/-- A nibble above the last one of `x ‖ y` is a nibble of `x`. -/
theorem extract_nibble_above {n : Nat} (x : BitVec n) (y : BitVec 4) (i : Nat) (h : 4 ≤ i) :
    (x ++ y).extractLsb' i 4 = x.extractLsb' (i - 4) 4 := by
  apply BitVec.eq_of_getLsbD_eq
  intro j hj
  simp only [BitVec.getLsbD_extractLsb', BitVec.getLsbD_append]
  rw [if_neg (by omega), show i + j - 4 = i - 4 + j by omega]

/-- The last nibble of `x ‖ y` is `y`. -/
theorem extract_nibble_last {n : Nat} (x : BitVec n) (y : BitVec 4) : (x ++ y).extractLsb' 0 4 = y := by
  apply BitVec.eq_of_getLsbD_eq
  intro j hj
  simp only [BitVec.getLsbD_extractLsb', BitVec.getLsbD_append]
  rw [if_pos (by omega)]; simp [hj]

/-- Byte `k` of a word put together from bytes (rule R8). -/
theorem wordByte_ofWordBytes (b0 b1 b2 b3 : Byte) :
    wordByte (ofWordBytes b0 b1 b2 b3) 0 = b0 ∧ wordByte (ofWordBytes b0 b1 b2 b3) 1 = b1 ∧
    wordByte (ofWordBytes b0 b1 b2 b3) 2 = b2 ∧ wordByte (ofWordBytes b0 b1 b2 b3) 3 = b3 := by
  unfold wordByte ofWordBytes
  refine ⟨?_, ?_, ?_, ?_⟩ <;> simp (disch := decide) only [extract_append_above, Nat.reduceMul, Nat.reduceSub] <;>
    first | exact extract_append_last _ _ | exact BitVec.extractLsb'_eq_self

end Sys2Proof.Machine
end

