-- ==== Sys2Proof/Laws/Feistel.lean ====
section
/-! SUPPORT. Laws of the Feistel functions: rounds as swapping rounds with the last swap undone (rule R145), and how a swapping
round is retraced (rule R149). -/

namespace Sys2Proof.Machine

/-- A round without the exception of round 16: apply and swap (rule R145). -/
def feistelSwapRound (lr : Half32 × Half32) (k : RoundKey) : Half32 × Half32 := (lr.2, lr.1 ^^^ feistelF lr.2 k)

/-- Rounds that end with round 16 are plain swapping rounds with the halves exchanged back at the end (rule R145). -/
theorem feistelRounds_eq_swap (ks : List RoundKey) (i : Nat) (lr : Half32 × Half32) (h : i + ks.length = 17) (hk : ks ≠ []) :
    feistelRounds i lr ks = (ks.foldl feistelSwapRound lr).swap := by
  induction ks generalizing i lr with
  | nil => exact absurd rfl hk
  | cons k ks ih =>
    rcases ks with - | ⟨k', ks⟩
    · have hi : ¬ i < Config.fRounds := by simp at h; simp [Config.fRounds]; omega
      simp [feistelRounds, feistelRound, feistelSwapRound, hi]
    · have hi : i < Config.fRounds := by simp at h; simp [Config.fRounds]; omega
      have hr : feistelRound i lr k = feistelSwapRound lr k := by simp [feistelRound, feistelSwapRound, hi]
      rw [feistelRounds, ih (i + 1) _ (by simp at h ⊢; omega) (by simp), hr, List.foldl_cons (b := lr)]

/-- A swapping round undoes itself between two exchanges of the halves. -/
theorem feistelSwapRound_swap (lr : Half32 × Half32) (k : RoundKey) :
    feistelSwapRound (feistelSwapRound lr k).swap k = lr.swap := by
  simp [feistelSwapRound, Prod.swap]

/-- Swapping rounds with the keys reversed retrace swapping rounds, with the halves exchanged (rule R149). -/
theorem feistelSwapRound_foldl_reverse (ks : List RoundKey) (lr : Half32 × Half32) :
    ks.reverse.foldl feistelSwapRound (ks.foldl feistelSwapRound lr).swap = lr.swap := by
  induction ks generalizing lr with
  | nil => rfl
  | cons k ks ih =>
    rw [List.reverse_cons, List.foldl_append, List.foldl_cons (b := lr), ih, List.foldl_cons, List.foldl_nil,
      feistelSwapRound_swap]

end Sys2Proof.Machine
end

