-- ==== Sys2Proof/Laws/Galois.lean ====
section
/-! SUPPORT. Laws of the field arithmetic: doubling and the accumulation of the multiplier are linear over exclusive or (rules
R210, R211, R213), and an induction over bytes that linearity makes usable. -/

namespace Sys2Proof.Machine

/-- Doubling is linear over exclusive or (rules R210, R211). -/
theorem mulBy2_xor (a b : Byte) : mulBy2 (a ^^^ b) = mulBy2 a ^^^ mulBy2 b := by
  apply BitVec.eq_of_getLsbD_eq
  intro i hi
  interval_cases i <;> cases ha : a.getLsbD 7 <;> cases hb : b.getLsbD 7 <;> simp_all [mulBy2]

/-- The accumulation is linear in both operands together. -/
theorem gmulStep_foldl_xor_right (l : List Nat) (b c p q a : Byte) :
    (l.foldl (gmulStep (b ^^^ c)) (p ^^^ q, a)).1 = (l.foldl (gmulStep b) (p, a)).1 ^^^ (l.foldl (gmulStep c) (q, a)).1 := by
  induction l generalizing p q a with
  | nil => rfl
  | cons n l ih =>
    simp only [List.foldl_cons, gmulStep, BitVec.getLsbD_xor]
    rw [← ih]
    congr 3
    cases b.getLsbD n <;> cases c.getLsbD n <;> simp
    all_goals
      (apply BitVec.eq_of_getLsbD_eq; intro i hi; simp
       try (cases p.getLsbD i <;> cases q.getLsbD i <;> cases a.getLsbD i <;> rfl))

/-- The accumulation is linear in the doubled operand. -/
theorem gmulStep_foldl_xor_left (l : List Nat) (b p q a d : Byte) :
    (l.foldl (gmulStep b) (p ^^^ q, a ^^^ d)).1 = (l.foldl (gmulStep b) (p, a)).1 ^^^ (l.foldl (gmulStep b) (q, d)).1 := by
  induction l generalizing p q a d with
  | nil => rfl
  | cons n l ih =>
    simp only [List.foldl_cons, gmulStep, mulBy2_xor]
    rw [← ih]
    congr 3
    cases b.getLsbD n
    · rfl
    · simp only [if_true, BitVec.xor_assoc]
      rw [← BitVec.xor_assoc q a d, BitVec.xor_comm q a, BitVec.xor_assoc a q d]

/-- A byte is the exclusive or of its single bits. -/
theorem byte_eq_xor_bits (a : Byte) :
    a = ([0, 1, 2, 3, 4, 5, 6, 7].map fun n => if a.getLsbD n then BitVec.twoPow 8 n else (0 : Byte)).foldl (· ^^^ ·) 0 := by
  have bit : ∀ n i, i < 8 →
      (if a.getLsbD n then BitVec.twoPow 8 n else (0 : Byte)).getLsbD i = (a.getLsbD n && decide (n = i)) := by
    intro n i hi
    cases a.getLsbD n <;> simp [hi]
    exact eq_comm
  apply BitVec.eq_of_getLsbD_eq
  intro i hi
  simp only [List.map_cons, List.map_nil, List.foldl_cons, List.foldl_nil, BitVec.getLsbD_xor, bit _ _ hi]
  interval_cases i <;> simp

/-- A property of bytes that holds of 0 and of the eight single bits, and passes to exclusive ors, holds of every byte. -/
theorem byte_xor_induction {P : Byte → Prop} (h0 : P 0) (h1 : ∀ n, n < 8 → P (BitVec.twoPow 8 n))
    (hx : ∀ a b, P a → P b → P (a ^^^ b)) (a : Byte) : P a := by
  have hb : ∀ n, n < 8 → P (if a.getLsbD n then BitVec.twoPow 8 n else 0) := by
    intro n hn; split
    · exact h1 n hn
    · exact h0
  rw [byte_eq_xor_bits a]
  simp only [List.map_cons, List.map_nil, List.foldl_cons, List.foldl_nil]
  refine hx _ _ (hx _ _ (hx _ _ (hx _ _ (hx _ _ (hx _ _ (hx _ _ (hx _ _ h0 ?_) ?_) ?_) ?_) ?_) ?_) ?_) ?_
  all_goals exact hb _ (by omega)

end Sys2Proof.Machine
end

