-- ==== Sys2Proof/Laws/Instances.lean ====
section
/-! SUPPORT. Laws of several instances: what one step of a system changes (rule R75). -/

namespace Sys2Proof.Machine

/-- Putting a state in place `k` puts it there in the list. -/
theorem System.engines_setEngine (y : System) (k : Nat) (s : State) : (y.setEngine k s).engines = y.engines.set k s := by
  cases k <;> rfl

/-- A step of instance `k` changes its entry alone. -/
theorem System.engines_stepAt (y : System) (k : Nat) : (y.stepAt k).engines = y.engines.modify k State.stepped := by
  apply List.ext_getElem?
  intro i
  rw [List.getElem?_modify]
  unfold System.stepAt
  cases h : y.engines[k]? with
  | none =>
    by_cases hik : k = i
    · subst hik; simp [h]
    · simp [hik]
  | some s =>
    by_cases hik : k = i
    · subst hik
      obtain ⟨hk, rfl⟩ := List.getElem?_eq_some_iff.1 h
      simp [System.engines_setEngine, hk]
    · simp [hik, System.engines_setEngine]

end Sys2Proof.Machine
end

