-- ==== Sys2Proof/Laws/State.lean ====
section
/-! SUPPORT. One lemma per field of State and per update of Machine/Ops.lean, true by rfl, so that no later proof unfolds a record
update. -/

namespace Sys2Proof.Machine

@[simp] theorem State.release_cmd (s : State) : s.release.cmd = s.cmd := rfl
@[simp] theorem State.release_err (s : State) : s.release.err = s.err := rfl
@[simp] theorem State.release_klen (s : State) : s.release.klen = s.klen := rfl
@[simp] theorem State.release_blen (s : State) : s.release.blen = s.blen := rfl
@[simp] theorem State.release_key (s : State) : s.release.key = s.key := rfl
@[simp] theorem State.release_din (s : State) : s.release.din = s.din := rfl
@[simp] theorem State.release_doutRaw (s : State) : s.release.doutRaw = s.doutRaw := rfl
@[simp] theorem State.release_dv (s : State) : s.release.dv = s.dv := rfl
@[simp] theorem State.release_fkv (s : State) : s.release.fkv = s.fkv := rfl
@[simp] theorem State.release_skv (s : State) : s.release.skv = s.skv := rfl
@[simp] theorem State.release_fatal (s : State) : s.release.fatal = s.fatal := rfl
@[simp] theorem State.release_frk (s : State) : s.release.frk = s.frk := rfl
@[simp] theorem State.release_w (s : State) : s.release.w = s.w := rfl
@[simp] theorem State.release_phase (s : State) : s.release.phase = s.phase := rfl
@[simp] theorem State.release_rnd (s : State) : s.release.rnd = s.rnd := rfl
@[simp] theorem State.release_work (s : State) : s.release.work = freeWork s.free := rfl
@[simp] theorem State.release_free (s : State) : s.release.free = s.free + 1 := rfl
@[simp] theorem State.release_reading (s : State) : s.release.reading = s.reading := rfl
@[simp] theorem State.release_script (s : State) : s.release.script = s.script := rfl
@[simp] theorem State.release_seen (s : State) : s.release.seen = s.seen := rfl

@[simp] theorem State.raise_cmd (s : State) (e : ErrKind) : (s.raise e).cmd = s.cmd := rfl
@[simp] theorem State.raise_err (s : State) (e : ErrKind) : (s.raise e).err = e.code := rfl
@[simp] theorem State.raise_klen (s : State) (e : ErrKind) : (s.raise e).klen = s.klen := rfl
@[simp] theorem State.raise_blen (s : State) (e : ErrKind) : (s.raise e).blen = s.blen := rfl
@[simp] theorem State.raise_key (s : State) (e : ErrKind) : (s.raise e).key = s.key := rfl
@[simp] theorem State.raise_din (s : State) (e : ErrKind) : (s.raise e).din = s.din := rfl
@[simp] theorem State.raise_doutRaw (s : State) (e : ErrKind) : (s.raise e).doutRaw = s.doutRaw := rfl
@[simp] theorem State.raise_dv (s : State) (e : ErrKind) : (s.raise e).dv = s.dv := rfl
@[simp] theorem State.raise_fkv (s : State) (e : ErrKind) : (s.raise e).fkv = s.fkv := rfl
@[simp] theorem State.raise_skv (s : State) (e : ErrKind) : (s.raise e).skv = s.skv := rfl
@[simp] theorem State.raise_fatal (s : State) (e : ErrKind) : (s.raise e).fatal = s.fatal := rfl
@[simp] theorem State.raise_frk (s : State) (e : ErrKind) : (s.raise e).frk = s.frk := rfl
@[simp] theorem State.raise_w (s : State) (e : ErrKind) : (s.raise e).w = s.w := rfl
@[simp] theorem State.raise_phase (s : State) (e : ErrKind) : (s.raise e).phase = .idle := rfl
@[simp] theorem State.raise_rnd (s : State) (e : ErrKind) : (s.raise e).rnd = 0 := rfl
@[simp] theorem State.raise_work (s : State) (e : ErrKind) : (s.raise e).work = s.work := rfl
@[simp] theorem State.raise_free (s : State) (e : ErrKind) : (s.raise e).free = s.free := rfl
@[simp] theorem State.raise_reading (s : State) (e : ErrKind) : (s.raise e).reading = s.reading := rfl
@[simp] theorem State.raise_script (s : State) (e : ErrKind) : (s.raise e).script = s.script := rfl
@[simp] theorem State.raise_seen (s : State) (e : ErrKind) : (s.raise e).seen = s.seen := rfl

@[simp] theorem State.fail_cmd (s : State) (e : ErrKind) : (s.fail e).cmd = s.cmd := rfl
@[simp] theorem State.fail_err (s : State) (e : ErrKind) : (s.fail e).err = e.code := rfl
@[simp] theorem State.fail_klen (s : State) (e : ErrKind) : (s.fail e).klen = s.klen := rfl
@[simp] theorem State.fail_blen (s : State) (e : ErrKind) : (s.fail e).blen = s.blen := rfl
@[simp] theorem State.fail_key (s : State) (e : ErrKind) : (s.fail e).key = s.key := rfl
@[simp] theorem State.fail_din (s : State) (e : ErrKind) : (s.fail e).din = s.din := rfl
@[simp] theorem State.fail_doutRaw (s : State) (e : ErrKind) : (s.fail e).doutRaw = s.doutRaw := rfl
@[simp] theorem State.fail_dv (s : State) (e : ErrKind) : (s.fail e).dv = s.dv := rfl
@[simp] theorem State.fail_fkv (s : State) (e : ErrKind) : (s.fail e).fkv = s.fkv := rfl
@[simp] theorem State.fail_skv (s : State) (e : ErrKind) : (s.fail e).skv = s.skv := rfl
@[simp] theorem State.fail_fatal (s : State) (e : ErrKind) : (s.fail e).fatal = s.fatal := rfl
@[simp] theorem State.fail_frk (s : State) (e : ErrKind) : (s.fail e).frk = s.frk := rfl
@[simp] theorem State.fail_w (s : State) (e : ErrKind) : (s.fail e).w = s.w := rfl
@[simp] theorem State.fail_phase (s : State) (e : ErrKind) : (s.fail e).phase = .idle := rfl
@[simp] theorem State.fail_rnd (s : State) (e : ErrKind) : (s.fail e).rnd = 0 := rfl
@[simp] theorem State.fail_work (s : State) (e : ErrKind) : (s.fail e).work = freeWork s.free := rfl
@[simp] theorem State.fail_free (s : State) (e : ErrKind) : (s.fail e).free = s.free + 1 := rfl
@[simp] theorem State.fail_reading (s : State) (e : ErrKind) : (s.fail e).reading = s.reading := rfl
@[simp] theorem State.fail_script (s : State) (e : ErrKind) : (s.fail e).script = s.script := rfl
@[simp] theorem State.fail_seen (s : State) (e : ErrKind) : (s.fail e).seen = s.seen := rfl

@[simp] theorem State.raiseFatal_cmd (s : State) : s.raiseFatal.cmd = s.cmd := rfl
@[simp] theorem State.raiseFatal_err (s : State) : s.raiseFatal.err = 4 := rfl
@[simp] theorem State.raiseFatal_klen (s : State) : s.raiseFatal.klen = s.klen := rfl
@[simp] theorem State.raiseFatal_blen (s : State) : s.raiseFatal.blen = s.blen := rfl
@[simp] theorem State.raiseFatal_key (s : State) : s.raiseFatal.key = s.key := rfl
@[simp] theorem State.raiseFatal_din (s : State) : s.raiseFatal.din = s.din := rfl
@[simp] theorem State.raiseFatal_doutRaw (s : State) : s.raiseFatal.doutRaw = s.doutRaw := rfl
@[simp] theorem State.raiseFatal_dv (s : State) : s.raiseFatal.dv = s.dv := rfl
@[simp] theorem State.raiseFatal_fkv (s : State) : s.raiseFatal.fkv = s.fkv := rfl
@[simp] theorem State.raiseFatal_skv (s : State) : s.raiseFatal.skv = s.skv := rfl
@[simp] theorem State.raiseFatal_fatal (s : State) : s.raiseFatal.fatal = true := rfl
@[simp] theorem State.raiseFatal_frk (s : State) : s.raiseFatal.frk = s.frk := rfl
@[simp] theorem State.raiseFatal_w (s : State) : s.raiseFatal.w = s.w := rfl
@[simp] theorem State.raiseFatal_phase (s : State) : s.raiseFatal.phase = .fault := rfl
@[simp] theorem State.raiseFatal_rnd (s : State) : s.raiseFatal.rnd = 0 := rfl
@[simp] theorem State.raiseFatal_work (s : State) : s.raiseFatal.work = freeWork s.free := rfl
@[simp] theorem State.raiseFatal_free (s : State) : s.raiseFatal.free = s.free + 1 := rfl
@[simp] theorem State.raiseFatal_reading (s : State) : s.raiseFatal.reading = s.reading := rfl
@[simp] theorem State.raiseFatal_script (s : State) : s.raiseFatal.script = s.script := rfl
@[simp] theorem State.raiseFatal_seen (s : State) : s.raiseFatal.seen = s.seen := rfl

@[simp] theorem State.succeed_cmd (s : State) : s.succeed.cmd = s.cmd := rfl
@[simp] theorem State.succeed_err (s : State) : s.succeed.err = 0 := rfl
@[simp] theorem State.succeed_klen (s : State) : s.succeed.klen = s.klen := rfl
@[simp] theorem State.succeed_blen (s : State) : s.succeed.blen = s.blen := rfl
@[simp] theorem State.succeed_key (s : State) : s.succeed.key = s.key := rfl
@[simp] theorem State.succeed_din (s : State) : s.succeed.din = s.din := rfl
@[simp] theorem State.succeed_doutRaw (s : State) : s.succeed.doutRaw = s.doutRaw := rfl
@[simp] theorem State.succeed_dv (s : State) : s.succeed.dv = s.dv := rfl
@[simp] theorem State.succeed_fkv (s : State) : s.succeed.fkv = s.fkv := rfl
@[simp] theorem State.succeed_skv (s : State) : s.succeed.skv = s.skv := rfl
@[simp] theorem State.succeed_fatal (s : State) : s.succeed.fatal = s.fatal := rfl
@[simp] theorem State.succeed_frk (s : State) : s.succeed.frk = s.frk := rfl
@[simp] theorem State.succeed_w (s : State) : s.succeed.w = s.w := rfl
@[simp] theorem State.succeed_phase (s : State) : s.succeed.phase = .idle := rfl
@[simp] theorem State.succeed_rnd (s : State) : s.succeed.rnd = 0 := rfl
@[simp] theorem State.succeed_work (s : State) : s.succeed.work = freeWork s.free := rfl
@[simp] theorem State.succeed_free (s : State) : s.succeed.free = s.free + 1 := rfl
@[simp] theorem State.succeed_reading (s : State) : s.succeed.reading = s.reading := rfl
@[simp] theorem State.succeed_script (s : State) : s.succeed.script = s.script := rfl
@[simp] theorem State.succeed_seen (s : State) : s.succeed.seen = s.seen := rfl

@[simp] theorem State.installFrk_cmd (s : State) (b : FrkBank) : (s.installFrk b).cmd = s.cmd := rfl
@[simp] theorem State.installFrk_err (s : State) (b : FrkBank) : (s.installFrk b).err = s.err := rfl
@[simp] theorem State.installFrk_klen (s : State) (b : FrkBank) : (s.installFrk b).klen = s.klen := rfl
@[simp] theorem State.installFrk_blen (s : State) (b : FrkBank) : (s.installFrk b).blen = s.blen := rfl
@[simp] theorem State.installFrk_key (s : State) (b : FrkBank) : (s.installFrk b).key = s.key := rfl
@[simp] theorem State.installFrk_din (s : State) (b : FrkBank) : (s.installFrk b).din = s.din := rfl
@[simp] theorem State.installFrk_doutRaw (s : State) (b : FrkBank) : (s.installFrk b).doutRaw = s.doutRaw := rfl
@[simp] theorem State.installFrk_dv (s : State) (b : FrkBank) : (s.installFrk b).dv = s.dv := rfl
@[simp] theorem State.installFrk_fkv (s : State) (b : FrkBank) : (s.installFrk b).fkv = true := rfl
@[simp] theorem State.installFrk_skv (s : State) (b : FrkBank) : (s.installFrk b).skv = s.skv := rfl
@[simp] theorem State.installFrk_fatal (s : State) (b : FrkBank) : (s.installFrk b).fatal = s.fatal := rfl
@[simp] theorem State.installFrk_frk (s : State) (b : FrkBank) : (s.installFrk b).frk = b := rfl
@[simp] theorem State.installFrk_w (s : State) (b : FrkBank) : (s.installFrk b).w = s.w := rfl
@[simp] theorem State.installFrk_phase (s : State) (b : FrkBank) : (s.installFrk b).phase = s.phase := rfl
@[simp] theorem State.installFrk_rnd (s : State) (b : FrkBank) : (s.installFrk b).rnd = s.rnd := rfl
@[simp] theorem State.installFrk_work (s : State) (b : FrkBank) : (s.installFrk b).work = s.work := rfl
@[simp] theorem State.installFrk_free (s : State) (b : FrkBank) : (s.installFrk b).free = s.free := rfl
@[simp] theorem State.installFrk_reading (s : State) (b : FrkBank) : (s.installFrk b).reading = s.reading := rfl
@[simp] theorem State.installFrk_script (s : State) (b : FrkBank) : (s.installFrk b).script = s.script := rfl
@[simp] theorem State.installFrk_seen (s : State) (b : FrkBank) : (s.installFrk b).seen = s.seen := rfl

@[simp] theorem State.installW_cmd (s : State) (b : WBank) : (s.installW b).cmd = s.cmd := rfl
@[simp] theorem State.installW_err (s : State) (b : WBank) : (s.installW b).err = s.err := rfl
@[simp] theorem State.installW_klen (s : State) (b : WBank) : (s.installW b).klen = s.klen := rfl
@[simp] theorem State.installW_blen (s : State) (b : WBank) : (s.installW b).blen = s.blen := rfl
@[simp] theorem State.installW_key (s : State) (b : WBank) : (s.installW b).key = s.key := rfl
@[simp] theorem State.installW_din (s : State) (b : WBank) : (s.installW b).din = s.din := rfl
@[simp] theorem State.installW_doutRaw (s : State) (b : WBank) : (s.installW b).doutRaw = s.doutRaw := rfl
@[simp] theorem State.installW_dv (s : State) (b : WBank) : (s.installW b).dv = s.dv := rfl
@[simp] theorem State.installW_fkv (s : State) (b : WBank) : (s.installW b).fkv = s.fkv := rfl
@[simp] theorem State.installW_skv (s : State) (b : WBank) : (s.installW b).skv = true := rfl
@[simp] theorem State.installW_fatal (s : State) (b : WBank) : (s.installW b).fatal = s.fatal := rfl
@[simp] theorem State.installW_frk (s : State) (b : WBank) : (s.installW b).frk = s.frk := rfl
@[simp] theorem State.installW_w (s : State) (b : WBank) : (s.installW b).w = b := rfl
@[simp] theorem State.installW_phase (s : State) (b : WBank) : (s.installW b).phase = s.phase := rfl
@[simp] theorem State.installW_rnd (s : State) (b : WBank) : (s.installW b).rnd = s.rnd := rfl
@[simp] theorem State.installW_work (s : State) (b : WBank) : (s.installW b).work = s.work := rfl
@[simp] theorem State.installW_free (s : State) (b : WBank) : (s.installW b).free = s.free := rfl
@[simp] theorem State.installW_reading (s : State) (b : WBank) : (s.installW b).reading = s.reading := rfl
@[simp] theorem State.installW_script (s : State) (b : WBank) : (s.installW b).script = s.script := rfl
@[simp] theorem State.installW_seen (s : State) (b : WBank) : (s.installW b).seen = s.seen := rfl

@[simp] theorem State.installDout_cmd (s : State) (r : Block128) : (s.installDout r).cmd = s.cmd := rfl
@[simp] theorem State.installDout_err (s : State) (r : Block128) : (s.installDout r).err = s.err := rfl
@[simp] theorem State.installDout_klen (s : State) (r : Block128) : (s.installDout r).klen = s.klen := rfl
@[simp] theorem State.installDout_blen (s : State) (r : Block128) : (s.installDout r).blen = s.blen := rfl
@[simp] theorem State.installDout_key (s : State) (r : Block128) : (s.installDout r).key = s.key := rfl
@[simp] theorem State.installDout_din (s : State) (r : Block128) : (s.installDout r).din = s.din := rfl
@[simp] theorem State.installDout_doutRaw (s : State) (r : Block128) : (s.installDout r).doutRaw = r := rfl
@[simp] theorem State.installDout_dv (s : State) (r : Block128) : (s.installDout r).dv = true := rfl
@[simp] theorem State.installDout_fkv (s : State) (r : Block128) : (s.installDout r).fkv = s.fkv := rfl
@[simp] theorem State.installDout_skv (s : State) (r : Block128) : (s.installDout r).skv = s.skv := rfl
@[simp] theorem State.installDout_fatal (s : State) (r : Block128) : (s.installDout r).fatal = s.fatal := rfl
@[simp] theorem State.installDout_frk (s : State) (r : Block128) : (s.installDout r).frk = s.frk := rfl
@[simp] theorem State.installDout_w (s : State) (r : Block128) : (s.installDout r).w = s.w := rfl
@[simp] theorem State.installDout_phase (s : State) (r : Block128) : (s.installDout r).phase = s.phase := rfl
@[simp] theorem State.installDout_rnd (s : State) (r : Block128) : (s.installDout r).rnd = s.rnd := rfl
@[simp] theorem State.installDout_work (s : State) (r : Block128) : (s.installDout r).work = s.work := rfl
@[simp] theorem State.installDout_free (s : State) (r : Block128) : (s.installDout r).free = s.free := rfl
@[simp] theorem State.installDout_reading (s : State) (r : Block128) : (s.installDout r).reading = s.reading := rfl
@[simp] theorem State.installDout_script (s : State) (r : Block128) : (s.installDout r).script = s.script := rfl
@[simp] theorem State.installDout_seen (s : State) (r : Block128) : (s.installDout r).seen = s.seen := rfl

@[simp] theorem State.clearDv_cmd (s : State) : s.clearDv.cmd = s.cmd := rfl
@[simp] theorem State.clearDv_err (s : State) : s.clearDv.err = s.err := rfl
@[simp] theorem State.clearDv_klen (s : State) : s.clearDv.klen = s.klen := rfl
@[simp] theorem State.clearDv_blen (s : State) : s.clearDv.blen = s.blen := rfl
@[simp] theorem State.clearDv_key (s : State) : s.clearDv.key = s.key := rfl
@[simp] theorem State.clearDv_din (s : State) : s.clearDv.din = s.din := rfl
@[simp] theorem State.clearDv_doutRaw (s : State) : s.clearDv.doutRaw = s.doutRaw := rfl
@[simp] theorem State.clearDv_dv (s : State) : s.clearDv.dv = false := rfl
@[simp] theorem State.clearDv_fkv (s : State) : s.clearDv.fkv = s.fkv := rfl
@[simp] theorem State.clearDv_skv (s : State) : s.clearDv.skv = s.skv := rfl
@[simp] theorem State.clearDv_fatal (s : State) : s.clearDv.fatal = s.fatal := rfl
@[simp] theorem State.clearDv_frk (s : State) : s.clearDv.frk = s.frk := rfl
@[simp] theorem State.clearDv_w (s : State) : s.clearDv.w = s.w := rfl
@[simp] theorem State.clearDv_phase (s : State) : s.clearDv.phase = s.phase := rfl
@[simp] theorem State.clearDv_rnd (s : State) : s.clearDv.rnd = s.rnd := rfl
@[simp] theorem State.clearDv_work (s : State) : s.clearDv.work = s.work := rfl
@[simp] theorem State.clearDv_free (s : State) : s.clearDv.free = s.free := rfl
@[simp] theorem State.clearDv_reading (s : State) : s.clearDv.reading = s.reading := rfl
@[simp] theorem State.clearDv_script (s : State) : s.clearDv.script = s.script := rfl
@[simp] theorem State.clearDv_seen (s : State) : s.clearDv.seen = s.seen := rfl

@[simp] theorem State.enter_cmd (s : State) (p : Phase) (r : BitVec 6) : (s.enter p r).cmd = s.cmd := rfl
@[simp] theorem State.enter_err (s : State) (p : Phase) (r : BitVec 6) : (s.enter p r).err = s.err := rfl
@[simp] theorem State.enter_klen (s : State) (p : Phase) (r : BitVec 6) : (s.enter p r).klen = s.klen := rfl
@[simp] theorem State.enter_blen (s : State) (p : Phase) (r : BitVec 6) : (s.enter p r).blen = s.blen := rfl
@[simp] theorem State.enter_key (s : State) (p : Phase) (r : BitVec 6) : (s.enter p r).key = s.key := rfl
@[simp] theorem State.enter_din (s : State) (p : Phase) (r : BitVec 6) : (s.enter p r).din = s.din := rfl
@[simp] theorem State.enter_doutRaw (s : State) (p : Phase) (r : BitVec 6) : (s.enter p r).doutRaw = s.doutRaw := rfl
@[simp] theorem State.enter_dv (s : State) (p : Phase) (r : BitVec 6) : (s.enter p r).dv = s.dv := rfl
@[simp] theorem State.enter_fkv (s : State) (p : Phase) (r : BitVec 6) : (s.enter p r).fkv = s.fkv := rfl
@[simp] theorem State.enter_skv (s : State) (p : Phase) (r : BitVec 6) : (s.enter p r).skv = s.skv := rfl
@[simp] theorem State.enter_fatal (s : State) (p : Phase) (r : BitVec 6) : (s.enter p r).fatal = s.fatal := rfl
@[simp] theorem State.enter_frk (s : State) (p : Phase) (r : BitVec 6) : (s.enter p r).frk = s.frk := rfl
@[simp] theorem State.enter_w (s : State) (p : Phase) (r : BitVec 6) : (s.enter p r).w = s.w := rfl
@[simp] theorem State.enter_phase (s : State) (p : Phase) (r : BitVec 6) : (s.enter p r).phase = p := rfl
@[simp] theorem State.enter_rnd (s : State) (p : Phase) (r : BitVec 6) : (s.enter p r).rnd = r := rfl
@[simp] theorem State.enter_work (s : State) (p : Phase) (r : BitVec 6) : (s.enter p r).work = s.work := rfl
@[simp] theorem State.enter_free (s : State) (p : Phase) (r : BitVec 6) : (s.enter p r).free = s.free := rfl
@[simp] theorem State.enter_reading (s : State) (p : Phase) (r : BitVec 6) : (s.enter p r).reading = s.reading := rfl
@[simp] theorem State.enter_script (s : State) (p : Phase) (r : BitVec 6) : (s.enter p r).script = s.script := rfl
@[simp] theorem State.enter_seen (s : State) (p : Phase) (r : BitVec 6) : (s.enter p r).seen = s.seen := rfl

@[simp] theorem State.latch_cmd (s : State) (x : BitVec 8) : (s.latch x).cmd = s.cmd := rfl
@[simp] theorem State.latch_err (s : State) (x : BitVec 8) : (s.latch x).err = s.err := rfl
@[simp] theorem State.latch_klen (s : State) (x : BitVec 8) : (s.latch x).klen = s.klen := rfl
@[simp] theorem State.latch_blen (s : State) (x : BitVec 8) : (s.latch x).blen = s.blen := rfl
@[simp] theorem State.latch_key (s : State) (x : BitVec 8) : (s.latch x).key = s.key := rfl
@[simp] theorem State.latch_din (s : State) (x : BitVec 8) : (s.latch x).din = s.din := rfl
@[simp] theorem State.latch_doutRaw (s : State) (x : BitVec 8) : (s.latch x).doutRaw = s.doutRaw := rfl
@[simp] theorem State.latch_dv (s : State) (x : BitVec 8) : (s.latch x).dv = s.dv := rfl
@[simp] theorem State.latch_fkv (s : State) (x : BitVec 8) : (s.latch x).fkv = s.fkv := rfl
@[simp] theorem State.latch_skv (s : State) (x : BitVec 8) : (s.latch x).skv = s.skv := rfl
@[simp] theorem State.latch_fatal (s : State) (x : BitVec 8) : (s.latch x).fatal = s.fatal := rfl
@[simp] theorem State.latch_frk (s : State) (x : BitVec 8) : (s.latch x).frk = s.frk := rfl
@[simp] theorem State.latch_w (s : State) (x : BitVec 8) : (s.latch x).w = s.w := rfl
@[simp] theorem State.latch_phase (s : State) (x : BitVec 8) : (s.latch x).phase = .decode := rfl
@[simp] theorem State.latch_rnd (s : State) (x : BitVec 8) : (s.latch x).rnd = s.rnd := rfl
@[simp] theorem State.latch_work (s : State) (x : BitVec 8) : (s.latch x).work = { s.work with dir := x.getLsbD 0 } := rfl
@[simp] theorem State.latch_free (s : State) (x : BitVec 8) : (s.latch x).free = s.free := rfl
@[simp] theorem State.latch_reading (s : State) (x : BitVec 8) : (s.latch x).reading = s.reading := rfl
@[simp] theorem State.latch_script (s : State) (x : BitVec 8) : (s.latch x).script = s.script := rfl
@[simp] theorem State.latch_seen (s : State) (x : BitVec 8) : (s.latch x).seen = s.seen := rfl

@[simp] theorem State.log_cmd (s : State) (x : Seen) : (s.log x).cmd = s.cmd := rfl
@[simp] theorem State.log_err (s : State) (x : Seen) : (s.log x).err = s.err := rfl
@[simp] theorem State.log_klen (s : State) (x : Seen) : (s.log x).klen = s.klen := rfl
@[simp] theorem State.log_blen (s : State) (x : Seen) : (s.log x).blen = s.blen := rfl
@[simp] theorem State.log_key (s : State) (x : Seen) : (s.log x).key = s.key := rfl
@[simp] theorem State.log_din (s : State) (x : Seen) : (s.log x).din = s.din := rfl
@[simp] theorem State.log_doutRaw (s : State) (x : Seen) : (s.log x).doutRaw = s.doutRaw := rfl
@[simp] theorem State.log_dv (s : State) (x : Seen) : (s.log x).dv = s.dv := rfl
@[simp] theorem State.log_fkv (s : State) (x : Seen) : (s.log x).fkv = s.fkv := rfl
@[simp] theorem State.log_skv (s : State) (x : Seen) : (s.log x).skv = s.skv := rfl
@[simp] theorem State.log_fatal (s : State) (x : Seen) : (s.log x).fatal = s.fatal := rfl
@[simp] theorem State.log_frk (s : State) (x : Seen) : (s.log x).frk = s.frk := rfl
@[simp] theorem State.log_w (s : State) (x : Seen) : (s.log x).w = s.w := rfl
@[simp] theorem State.log_phase (s : State) (x : Seen) : (s.log x).phase = s.phase := rfl
@[simp] theorem State.log_rnd (s : State) (x : Seen) : (s.log x).rnd = s.rnd := rfl
@[simp] theorem State.log_work (s : State) (x : Seen) : (s.log x).work = s.work := rfl
@[simp] theorem State.log_free (s : State) (x : Seen) : (s.log x).free = s.free := rfl
@[simp] theorem State.log_reading (s : State) (x : Seen) : (s.log x).reading = s.reading := rfl
@[simp] theorem State.log_script (s : State) (x : Seen) : (s.log x).script = s.script := rfl
@[simp] theorem State.log_seen (s : State) (x : Seen) : (s.log x).seen = x :: s.seen := rfl

@[simp] theorem State.continueWith_cmd (s : State) (p : List HostAction) : (s.continueWith p).cmd = s.cmd := rfl
@[simp] theorem State.continueWith_err (s : State) (p : List HostAction) : (s.continueWith p).err = s.err := rfl
@[simp] theorem State.continueWith_klen (s : State) (p : List HostAction) : (s.continueWith p).klen = s.klen := rfl
@[simp] theorem State.continueWith_blen (s : State) (p : List HostAction) : (s.continueWith p).blen = s.blen := rfl
@[simp] theorem State.continueWith_key (s : State) (p : List HostAction) : (s.continueWith p).key = s.key := rfl
@[simp] theorem State.continueWith_din (s : State) (p : List HostAction) : (s.continueWith p).din = s.din := rfl
@[simp] theorem State.continueWith_doutRaw (s : State) (p : List HostAction) : (s.continueWith p).doutRaw = s.doutRaw := rfl
@[simp] theorem State.continueWith_dv (s : State) (p : List HostAction) : (s.continueWith p).dv = s.dv := rfl
@[simp] theorem State.continueWith_fkv (s : State) (p : List HostAction) : (s.continueWith p).fkv = s.fkv := rfl
@[simp] theorem State.continueWith_skv (s : State) (p : List HostAction) : (s.continueWith p).skv = s.skv := rfl
@[simp] theorem State.continueWith_fatal (s : State) (p : List HostAction) : (s.continueWith p).fatal = s.fatal := rfl
@[simp] theorem State.continueWith_frk (s : State) (p : List HostAction) : (s.continueWith p).frk = s.frk := rfl
@[simp] theorem State.continueWith_w (s : State) (p : List HostAction) : (s.continueWith p).w = s.w := rfl
@[simp] theorem State.continueWith_phase (s : State) (p : List HostAction) : (s.continueWith p).phase = s.phase := rfl
@[simp] theorem State.continueWith_rnd (s : State) (p : List HostAction) : (s.continueWith p).rnd = s.rnd := rfl
@[simp] theorem State.continueWith_work (s : State) (p : List HostAction) : (s.continueWith p).work = s.work := rfl
@[simp] theorem State.continueWith_free (s : State) (p : List HostAction) : (s.continueWith p).free = s.free := rfl
@[simp] theorem State.continueWith_reading (s : State) (p : List HostAction) : (s.continueWith p).reading = s.reading := rfl
@[simp] theorem State.continueWith_script (s : State) (p : List HostAction) : (s.continueWith p).script = p := rfl
@[simp] theorem State.continueWith_seen (s : State) (p : List HostAction) : (s.continueWith p).seen = s.seen := rfl

@[simp] theorem State.afterReset_cmd (s : State) : s.afterReset.cmd = State.reset.cmd := rfl
@[simp] theorem State.afterReset_err (s : State) : s.afterReset.err = State.reset.err := rfl
@[simp] theorem State.afterReset_klen (s : State) : s.afterReset.klen = State.reset.klen := rfl
@[simp] theorem State.afterReset_blen (s : State) : s.afterReset.blen = State.reset.blen := rfl
@[simp] theorem State.afterReset_key (s : State) : s.afterReset.key = State.reset.key := rfl
@[simp] theorem State.afterReset_din (s : State) : s.afterReset.din = State.reset.din := rfl
@[simp] theorem State.afterReset_doutRaw (s : State) : s.afterReset.doutRaw = State.reset.doutRaw := rfl
@[simp] theorem State.afterReset_dv (s : State) : s.afterReset.dv = State.reset.dv := rfl
@[simp] theorem State.afterReset_fkv (s : State) : s.afterReset.fkv = State.reset.fkv := rfl
@[simp] theorem State.afterReset_skv (s : State) : s.afterReset.skv = State.reset.skv := rfl
@[simp] theorem State.afterReset_fatal (s : State) : s.afterReset.fatal = State.reset.fatal := rfl
@[simp] theorem State.afterReset_frk (s : State) : s.afterReset.frk = State.reset.frk := rfl
@[simp] theorem State.afterReset_w (s : State) : s.afterReset.w = State.reset.w := rfl
@[simp] theorem State.afterReset_phase (s : State) : s.afterReset.phase = State.reset.phase := rfl
@[simp] theorem State.afterReset_rnd (s : State) : s.afterReset.rnd = State.reset.rnd := rfl
@[simp] theorem State.afterReset_work (s : State) : s.afterReset.work = State.reset.work := rfl
@[simp] theorem State.afterReset_free (s : State) : s.afterReset.free = s.free := rfl
@[simp] theorem State.afterReset_reading (s : State) : s.afterReset.reading = s.reading := rfl
@[simp] theorem State.afterReset_script (s : State) : s.afterReset.script = s.script := rfl
@[simp] theorem State.afterReset_seen (s : State) : s.afterReset.seen = s.seen := rfl

end Sys2Proof.Machine
end

