-- ==== Sys2Proof/Laws/Ops.lean ====
section
/-! SUPPORT. What the shared operations of Machine/Ops.lean can do, said once: the two command shapes by their checks, and the
flags that are views of other state. -/

namespace Sys2Proof.Machine

/-- A key command whose length is right does what the command does. -/
theorem keyCommand_pass {len : BitVec 16} {go : State → State} {s : State} (h : s.klen = len) :
    keyCommand len go s = go s := if_pos h

/-- A key command whose length is wrong fails with `InvalidKeyLength` (rule R223). -/
theorem keyCommand_badLength {len : BitVec 16} {go : State → State} {s : State} (h : s.klen ≠ len) :
    keyCommand len go s = s.fail .invalidKeyLength := if_neg h

/-- A transform whose checks pass does what the command does, with `DV` cleared first. -/
theorem transformCommand_pass {len : BitVec 16} {valid : Bool} {go : State → State} {s : State} (h : s.blen = len)
    (hv : valid = true) : transformCommand len valid go s = go s.clearDv := by
  rw [transformCommand, if_pos h, if_pos hv]

/-- A transform whose length is wrong fails with `InvalidBlockLength`, whether or not a schedule is there (rule R224). -/
theorem transformCommand_badLength {len : BitVec 16} {valid : Bool} {go : State → State} {s : State} (h : s.blen ≠ len) :
    transformCommand len valid go s = s.clearDv.fail .invalidBlockLength := if_neg h

/-- A transform without a schedule fails with `NoSchedule` (rule R226). -/
theorem transformCommand_noSchedule {len : BitVec 16} {valid : Bool} {go : State → State} {s : State} (h : s.blen = len)
    (hv : valid = false) : transformCommand len valid go s = s.clearDv.fail .noSchedule := by
  rw [transformCommand, if_pos h, hv]; rfl

/-- Everything a key command can do. -/
theorem keyCommand_cases {P : State → Prop} {len : BitVec 16} {go : State → State} {s : State}
    (pass : s.klen = len → P (go s)) (fail : s.klen ≠ len → P (s.fail .invalidKeyLength)) : P (keyCommand len go s) := by
  unfold keyCommand
  split
  · exact pass ‹_›
  · exact fail ‹_›

/-- Everything a transform command can do. -/
theorem transformCommand_cases {P : State → Prop} {len : BitVec 16} {valid : Bool} {go : State → State} {s : State}
    (pass : s.blen = len → valid = true → P (go s.clearDv))
    (noSchedule : s.blen = len → valid = false → P (s.clearDv.fail .noSchedule))
    (badLength : s.blen ≠ len → P (s.clearDv.fail .invalidBlockLength)) : P (transformCommand len valid go s) := by
  unfold transformCommand
  split
  · split
    · exact pass ‹_› ‹_›
    · exact noSchedule ‹_› (by simpa using ‹¬valid = true›)
  · exact badLength ‹_›

/-- An engine in a running phase, or in `DECODE`, is busy; an idle or stopped one is not (rule R23). -/
theorem busy_eq_true {s : State} : s.busy = true ↔ s.phase ≠ .idle ∧ s.phase ≠ .fault := by
  unfold State.busy; cases s.phase <;> simp

/-- An engine is not busy exactly where it is idle or stopped (rule R23). -/
theorem busy_eq_false {s : State} : s.busy = false ↔ s.phase = .idle ∨ s.phase = .fault := by
  unfold State.busy; cases s.phase <;> simp

/-- No error kind has the code 0, which means no error (rules R24, R221). -/
theorem code_ne_zero (e : ErrKind) : e.code ≠ 0 := by cases e <;> decide

end Sys2Proof.Machine
end

