-- ==== Sys2Proof/Laws/PerInstr.lean ====
section
/-! SUPPORT. The family RoundTrip, one lemma per command: the command is well formed and its word decodes back to it. -/

namespace Sys2Proof.Laws.RoundTrip

/-- A command is well formed, its word has the reserved bits 0 and the command's fields, and decodes to the command
(rules R90, R91, R92). -/
def Statement (i : Instr) : Prop :=
  i.wellFormed = true ∧ decode (encode i) = .ok i ∧ fieldRSV (encode i) = 0 ∧ fieldCIPH (encode i) = ciphOf i ∧
    fieldFN (encode i) = fnOf i

/-- FKS, 0x01. -/
theorem fks : Statement .fks := by unfold Statement; decide

/-- FENC, 0x02. -/
theorem fenc : Statement .fenc := by unfold Statement; decide

/-- FDEC, 0x03. -/
theorem fdec : Statement .fdec := by unfold Statement; decide

/-- SKX, 0x05. -/
theorem skx : Statement .skx := by unfold Statement; decide

/-- SENC, 0x06. -/
theorem senc : Statement .senc := by unfold Statement; decide

/-- SDEC, 0x07. -/
theorem sdec : Statement .sdec := by unfold Statement; decide

end Sys2Proof.Laws.RoundTrip
end

