-- ==== Sys2Proof/Laws/Sequencer.lean ====
section
/-! SUPPORT. The sequencer's micro-steps, said once: what a command has written after `n` of them, what one more does, and what
the last one leaves. -/

namespace Sys2Proof.Machine

/-- One micro-step more, at the end. -/
theorem microSteps_succ (n : Nat) (s : State) : microSteps (n + 1) s = microStep (microSteps n s) := by
  induction n generalizing s with
  | zero => rfl
  | succ n ih => rw [microSteps, ih, microSteps]

/-- Micro-steps add up. -/
theorem microSteps_add (m n : Nat) (s : State) : microSteps (m + n) s = microSteps n (microSteps m s) := by
  induction m generalizing s with
  | zero => rw [Nat.zero_add]; rfl
  | succ m ih => rw [Nat.succ_add, microSteps, ih, microSteps]

/-- A small `RND` as a number. -/
theorem rnd_toNat {n : Nat} (h : n < 64) : (BitVec.ofNat 6 n).toNat = n := by simp [Nat.mod_eq_of_lt h]

/-- `RND` counts up. -/
theorem rnd_succ (n : Nat) : BitVec.ofNat 6 n + 1 = BitVec.ofNat 6 (n + 1) := by
  rw [show (1 : BitVec 6) = BitVec.ofNat 6 1 from rfl, ← BitVec.ofNat_add]

/-- `RND` plus one as a number. -/
theorem rnd_add_one (x : BitVec 6) (h : x.toNat < 63) : (x + 1).toNat = x.toNat + 1 := by
  rw [BitVec.toNat_add]; simp; omega

/-- `RND` minus one as a number. -/
theorem rnd_sub_one (x : BitVec 6) (h : 0 < x.toNat) : (x - 1).toNat = x.toNat - 1 := by
  rw [BitVec.toNat_sub]; simp; omega

/-! ### Writing a bank entry by entry -/

/-- Word `j` of a bank after a write at place `i`. -/
theorem wAt_set (w : WBank) (i j : Nat) (x : Word) (h : j < 44) :
    wAt (w.setIfInBounds i x) j = if i = j then x else wAt w j := by
  unfold wAt
  rw [Vector.toList_setIfInBounds, List.getD_eq_getElem?_getD, List.getD_eq_getElem?_getD, List.getElem?_set]
  split
  · subst_vars; simp [h]
  · rfl

/-- Two banks with the same words are equal. -/
theorem eq_of_wAt {a b : WBank} (h : ∀ j, j < 44 → wAt a j = wAt b j) : a = b := by
  apply Vector.ext
  intro i hi
  simpa [wAt, hi] using h i hi

/-- The round keys up to `K_n` written over a bank, as a running FKS has them (rule R150). -/
def frkUpTo (k : Block64) (b : FrkBank) : Nat → FrkBank
  | 0 => b
  | n + 1 => (frkUpTo k b n).setIfInBounds n (ksRoundKey k (n + 1))

/-- The entries before place `n` are the round keys, the others are as they were. -/
theorem frkUpTo_getD (k : Block64) (b : FrkBank) (n j : Nat) (hj : j < 16) :
    (frkUpTo k b n).toList.getD j 0 = if j < n then ksRoundKey k (j + 1) else b.toList.getD j 0 := by
  induction n with
  | zero => rfl
  | succ n ih =>
    rw [frkUpTo, Vector.toList_setIfInBounds, List.getD_eq_getElem?_getD, List.getElem?_set]
    by_cases h : n = j
    · subst h; simp [hj]
    · rw [if_neg h, ← List.getD_eq_getElem?_getD, ih]
      exact if_congr (by omega) rfl rfl

/-- All sixteen written, the bank is the schedule (rules R142, R150). -/
theorem frkUpTo_sixteen (k : Block64) (b : FrkBank) : frkUpTo k b 16 = feistelKS k := by
  apply Vector.ext
  intro i hi
  have := frkUpTo_getD k b 16 i hi
  rw [if_pos hi] at this
  simpa [hi, feistelKS] using this

/-- The words of the expansion before `W[n + 4]` written over a bank, as a running SKX has them (rule R196). -/
def wUpTo (k : Block128) (b : WBank) (n : Nat) : WBank := (List.range' 4 n).foldl kxStep (kxLoad b k)

/-- One word more. -/
theorem wUpTo_succ (k : Block128) (b : WBank) (n : Nat) : wUpTo k b (n + 1) = kxStep (wUpTo k b n) (n + 4) := by
  rw [wUpTo, List.range'_concat, List.foldl_append, wUpTo, List.foldl_cons, List.foldl_nil, Nat.one_mul, Nat.add_comm 4 n]

/-- A pass of the expansion changes word `i` alone. -/
theorem wAt_kxStep (w : WBank) (i j : Nat) (h : j < 44) :
    wAt (kxStep w i) j = if i = j then kxT (wAt w (i - 1)) i ^^^ wAt w (i - 4) else wAt w j := wAt_set _ _ _ _ h

/-- The first four words are the key's, the others as they were. -/
theorem wAt_kxLoad (b : WBank) (k : Block128) (j : Nat) (h : j < 44) :
    wAt (kxLoad b k) j = if j < 4 then wordOf k j else wAt b j := by
  unfold kxLoad
  rw [wAt_set _ _ _ _ h, wAt_set _ _ _ _ h, wAt_set _ _ _ _ h, wAt_set _ _ _ _ h]
  by_cases h4 : j < 4
  · interval_cases j <;> rfl
  · simp only [h4, if_false, show ¬ 3 = j by omega, show ¬ 2 = j by omega, show ¬ 1 = j by omega, show ¬ 0 = j by omega]

/-- The words written so far do not depend on what the bank held (rules R183, R196). -/
theorem wUpTo_agree (k : Block128) (b b' : WBank) (n : Nat) (hn : n ≤ 40) :
    ∀ j, j < n + 4 → wAt (wUpTo k b n) j = wAt (wUpTo k b' n) j := by
  induction n with
  | zero =>
    intro j hj
    show wAt (kxLoad b k) j = wAt (kxLoad b' k) j
    rw [wAt_kxLoad _ _ _ (by omega), wAt_kxLoad _ _ _ (by omega), if_pos (by omega), if_pos (by omega)]
  | succ n ih =>
    intro j hj
    rw [wUpTo_succ, wUpTo_succ, wAt_kxStep _ _ _ (by omega), wAt_kxStep _ _ _ (by omega)]
    split
    · rw [ih (by omega) _ (by omega), ih (by omega) _ (by omega)]
    · exact ih (by omega) _ (by omega)

/-- All forty written, the bank is the expansion, whatever it held (rules R182, R196). -/
theorem wUpTo_forty (k : Block128) (b : WBank) : wUpTo k b 40 = spnKX k :=
  eq_of_wAt fun j hj => wUpTo_agree k b (Vector.replicate 44 0) 40 (by omega) j (by omega)

/-- A word, once written, stays. -/
theorem wAt_wUpTo_stable (k : Block128) (b : WBank) (n m j : Nat) (hj : j < n + 4) (hn : n ≤ m) (hm : m ≤ 40) :
    wAt (wUpTo k b m) j = wAt (wUpTo k b n) j := by
  induction m with
  | zero => rw [show n = 0 by omega]
  | succ m ih =>
    by_cases h : n = m + 1
    · rw [h]
    · rw [wUpTo_succ, wAt_kxStep _ _ _ (by omega), if_neg (by omega), ih (by omega) (by omega)]

/-- Every word from the fourth on satisfies the recurrence (rule R182). -/
theorem wAt_spnKX (k : Block128) (i : Nat) (h4 : 4 ≤ i) (h : i < 44) :
    wAt (spnKX k) i = kxT (wAt (spnKX k) (i - 1)) i ^^^ wAt (spnKX k) (i - 4) := by
  rw [← wUpTo_forty k (Vector.replicate 44 0)]
  obtain ⟨n, rfl⟩ : ∃ n, i = n + 4 := ⟨i - 4, by omega⟩
  rw [wAt_wUpTo_stable _ _ (n + 1) 40 (n + 4) (by omega) (by omega) (by omega),
    wAt_wUpTo_stable _ _ n 40 (n + 4 - 1) (by omega) (by omega) (by omega),
    wAt_wUpTo_stable _ _ n 40 (n + 4 - 4) (by omega) (by omega) (by omega),
    wUpTo_succ, wAt_kxStep _ _ _ h, if_pos rfl]

/-- The first four words are the key's (rules R65, R182). -/
theorem wAt_spnKX_key (k : Block128) (i : Nat) (h : i < 4) : wAt (spnKX k) i = wordOf k i := by
  rw [← wUpTo_forty k (Vector.replicate 44 0), wAt_wUpTo_stable _ _ 0 40 i (by omega) (by omega) (by omega)]
  show wAt (kxLoad _ _) _ = _
  rw [wAt_kxLoad _ _ _ (by omega), if_pos h]

/-! ### A command after `n` of its micro-steps -/

/-- FKS after `n` rounds (rule R150). -/
def fksAfter (s : State) (n : Nat) : State :=
  { s with
    fkv := false
    work := { s.work with c := ksRotated (ksC0 (feistelOperand s.key)) n, d := ksRotated (ksD0 (feistelOperand s.key)) n }
    frk := frkUpTo (feistelOperand s.key) s.frk n, phase := .fksRun, rnd := BitVec.ofNat 6 (n + 1) }

/-- The shift counts as `TabRead` gives them. -/
theorem tabRead_shift (i : Nat) (h1 : 1 ≤ i) (h2 : i ≤ 16) : tabRead .shift i = some (tabSHIFT.getD (i - 1) 0) := by
  interval_cases i <;> rfl

/-- A micro-step of FKS before the last (rule R150). -/
theorem microStep_fksAfter (s : State) (n : Nat) (h : n < 15) : microStep (fksAfter s n) = fksAfter s (n + 1) := by
  show stepFks _ = _
  unfold stepFks fksAfter
  simp only [rnd_toNat (show n + 1 < 64 by omega), tabRead_shift _ (Nat.le_add_left 1 n) (show n + 1 ≤ 16 by omega)]
  rw [if_neg (by simp [Config.fRounds]; omega)]
  simp only [rnd_succ, Nat.add_sub_cancel]
  rfl

/-- The last micro-step of FKS: the whole command's state (rules R141, R150). -/
theorem microStep_fksAfter_last (s : State) :
    microStep (fksAfter s 15) = (s.installFrk (feistelKS (feistelOperand s.key))).succeed := by
  rw [← frkUpTo_sixteen _ s.frk]; rfl

/-- The round keys in the order FX uses them: the bank, or the bank reversed where `DIR = 1` (rule R151). -/
def fxKeys (s : State) : FrkBank := if s.work.dir then frkReversed s.frk else s.frk

/-- The bank entry round `n + 1` takes is key `n` of that order. -/
theorem frkAt_fxKeys (s : State) (n : Nat) (h : n < 16) :
    s.frkAt (if s.work.dir then 17 - (n + 1) else n + 1) = some ((fxKeys s)[n]) := by
  unfold State.frkAt fxKeys
  cases s.work.dir
  · simp [h]
  · simp [frkReversed, show 1 ≤ 16 - n by omega, show 16 - n - 1 = 15 - n by omega, show 15 - n < 16 by omega]

/-- The halves after `n` rounds, `n ≤ 15` (rules R145, R146). -/
def fxHalves (s : State) (n : Nat) : Half32 × Half32 :=
  ((fxKeys s).toList.take n).foldl feistelSwapRound (fxLoad (feistelOperand s.din))

/-- One round more. -/
theorem fxHalves_succ (s : State) (n : Nat) (h : n < 16) :
    fxHalves s (n + 1) = feistelSwapRound (fxHalves s n) (fxKeys s)[n] := by
  unfold fxHalves
  rw [List.take_succ_eq_append_getElem (by simpa using h), List.foldl_append]
  simp

/-- FENC or FDEC after `n` rounds (rule R151). -/
def fxAfter (s : State) (n : Nat) : State :=
  { s with work := { s.work with l := (fxHalves s n).1, r := (fxHalves s n).2 }, phase := .fxRun, rnd := BitVec.ofNat 6 (n + 1) }

/-- A micro-step of FENC or FDEC before the last (rule R151). -/
theorem microStep_fxAfter (s : State) (n : Nat) (h : n < 15) : microStep (fxAfter s n) = fxAfter s (n + 1) := by
  have hk := frkAt_fxKeys s n (by omega)
  show stepFx _ = _
  unfold stepFx fxAfter
  simp only [rnd_toNat (show n + 1 < 64 by omega)]
  rw [show State.frkAt { s with
      work := { s.work with l := (fxHalves s n).1, r := (fxHalves s n).2 }, phase := .fxRun, rnd := BitVec.ofNat 6 (n + 1) }
      (if s.work.dir then 17 - (n + 1) else n + 1) = some ((fxKeys s)[n]) from hk]
  simp only [fxHalves_succ s n (by omega), rnd_succ]
  rw [if_neg (by simp [Config.fRounds]; omega)]
  simp only [feistelRound, Config.fRounds, show n + 1 < 16 by omega, if_true]
  rfl

/-- The last micro-step of FENC or FDEC (rules R147, R148, R151). -/
theorem microStep_fxAfter_last (s : State) :
    microStep (fxAfter s 15) =
      (s.installDout (feistelResult (feistelFX (feistelOperand s.din) (fxKeys s)))).succeed := by
  have hk := frkAt_fxKeys s 15 (by omega)
  have hx : feistelFX (feistelOperand s.din) (fxKeys s) = fxUnload (fxHalves s 16).swap := by
    unfold feistelFX
    rw [feistelRounds_eq_swap _ _ _ (by simp) (by rw [← List.length_pos_iff]; simp)]
    unfold fxHalves
    rw [List.take_of_length_le (by simp)]
  show stepFx _ = _
  unfold stepFx fxAfter
  simp only [rnd_toNat (show 15 + 1 < 64 by omega)]
  rw [show State.frkAt { s with
      work := { s.work with l := (fxHalves s 15).1, r := (fxHalves s 15).2 }, phase := .fxRun, rnd := BitVec.ofNat 6 (15 + 1) }
      (if s.work.dir then 17 - (15 + 1) else 15 + 1) = some ((fxKeys s)[15]) from hk, hx, fxHalves_succ s 15 (by omega)]
  rfl

/-- SENC after `n` rounds (rule R197). -/
def sencAfter (s : State) (n : Nat) : State :=
  { s with
    work := { s.work with st := (List.range' 1 n).foldl (seRound s.w) (spnARK s.w (spnOperand s.din) 0) }
    phase := .sencRun, rnd := BitVec.ofNat 6 (n + 1) }

/-- A micro-step of SENC before the last (rule R197). -/
theorem microStep_sencAfter (s : State) (n : Nat) (h : n < 9) : microStep (sencAfter s n) = sencAfter s (n + 1) := by
  show stepSenc _ = _
  unfold stepSenc sencAfter
  simp only [rnd_toNat (show n + 1 < 64 by omega)]
  rw [if_neg (by omega), if_pos (by simp [Config.sRounds]; omega), rnd_succ, List.range'_concat, List.foldl_append]
  simp only [List.foldl_cons, List.foldl_nil, Nat.one_mul, Nat.add_comm 1 n]

/-- The last micro-step of SENC (rules R189, R197). -/
theorem microStep_sencAfter_last (s : State) :
    microStep (sencAfter s 9) = (s.installDout (spnSE (spnOperand s.din) s.w)).succeed := rfl

/-- SDEC after `n` rounds, `RND` counting down (rule R198). -/
def sdecAfter (s : State) (n : Nat) : State :=
  { s with
    work := { s.work with st := ([9, 8, 7, 6, 5, 4, 3, 2, 1].take n).foldl (sdRound s.w) (spnARK s.w (spnOperand s.din) 10) }
    phase := .sdecRun, rnd := BitVec.ofNat 6 (9 - n) }

/-- A micro-step of SDEC before the last (rule R198). -/
theorem microStep_sdecAfter (s : State) (n : Nat) (h : n < 9) : microStep (sdecAfter s n) = sdecAfter s (n + 1) := by
  interval_cases n <;> simp [microStep, stepSdec, sdecAfter, Config.sRounds]

/-- The last micro-step of SDEC (rules R194, R198). -/
theorem microStep_sdecAfter_last (s : State) :
    microStep (sdecAfter s 9) = (s.installDout (spnSD (spnOperand s.din) s.w)).succeed := rfl

/-- SKX with the words before `W[n + 4]` written (rule R196). -/
def skxAfter (s : State) (n : Nat) : State :=
  { s with
    skv := false, w := wUpTo (spnOperand s.key) s.w n, phase := .skxRun, rnd := BitVec.ofNat 6 (n + 4)
    work := { s.work with
      t := if n = 0 then s.work.t else kxT (wAt (wUpTo (spnOperand s.key) s.w (n - 1)) (n + 2)) (n + 3) } }

/-- A micro-step of SKX before the last (rule R196). -/
theorem microStep_skxAfter (s : State) (n : Nat) (h : n < 39) : microStep (skxAfter s n) = skxAfter s (n + 1) := by
  show stepSkx _ = _
  unfold stepSkx skxAfter
  simp only [rnd_toNat (show n + 4 < 64 by omega)]
  rw [if_pos (by simp [Config.sWords]; omega), if_neg (by simp [Config.sWords]; omega)]
  simp only [rnd_succ, wUpTo_succ]
  rfl

/-- The last micro-step of SKX (rules R183, R196). -/
theorem microStep_skxAfter_last (s : State) :
    microStep (skxAfter s 39) = (s.installW (spnKX (spnOperand s.key))).succeed := by
  rw [← wUpTo_forty _ s.w, wUpTo_succ]; rfl

/-- A chain of states, each the micro-step of the one before. -/
theorem microSteps_chain (f : Nat → State) (m : Nat) (h : ∀ n, n < m → microStep (f n) = f (n + 1)) (n : Nat) (hn : n ≤ m) :
    microSteps n (f 0) = f n := by
  induction n with
  | zero => rfl
  | succ n ih => rw [microSteps_succ, ih (by omega), h n (by omega)]

/-! ### The issue micro-step of a command whose checks pass -/

/-- FKS after no round (rule R150). -/
theorem startFks_pass (s : State) (h : s.klen = 64) : startFks s = fksAfter s 0 := keyCommand_pass h

/-- FENC or FDEC after no round (rule R151). -/
theorem startFx_pass (s : State) (h : s.blen = 64) (hv : s.fkv = true) : startFx s = fxAfter s.clearDv 0 :=
  transformCommand_pass h hv

/-- SKX with the key's words written (rule R196). -/
theorem startSkx_pass (s : State) (h : s.klen = 128) : startSkx s = skxAfter s 0 := keyCommand_pass h

/-- SENC after no round (rule R197). -/
theorem startSenc_pass (s : State) (h : s.blen = 128) (hv : s.skv = true) : startSenc s = sencAfter s.clearDv 0 :=
  transformCommand_pass h hv

/-- SDEC after no round (rule R198). -/
theorem startSdec_pass (s : State) (h : s.blen = 128) (hv : s.skv = true) : startSdec s = sdecAfter s.clearDv 0 :=
  transformCommand_pass h hv

end Sys2Proof.Machine
end

