-- ==== Sys2Proof/Laws/Step.lean ====
section
/-! SUPPORT. Inversion lemmas: everything the issue step, the engine's own step, a host entry and a step of the machine can do, and
what they leave untouched. -/

namespace Sys2Proof.Machine
/-- Everything the issue step can do (rules R96, R227, R231). -/
theorem issue_cases {s t : State} (h : issue s = .next t) :
    (s.fatal = true ∧ t = s) ∨
    (s.fatal = false ∧ (∀ i, decode s.cmd ≠ .ok i) ∧ t = s.raise .illegalCommand) ∨
    ∃ i, s.fatal = false ∧ decode s.cmd = .ok i ∧
      ((s.reading = .whole ∧ exec i (s.latch s.cmd) = .next t) ∨ (s.reading = .stepwise ∧ t = start i (s.latch s.cmd))) := by
  unfold issue at h
  cases hf : s.fatal
  · rw [hf] at h
    cases hd : decode s.cmd with
    | error e =>
      rw [hd] at h
      exact .inr (.inl ⟨rfl, nofun, by injection h with h; exact h.symm⟩)
    | ok i =>
      rw [hd] at h
      refine .inr (.inr ⟨i, rfl, rfl, ?_⟩)
      cases hr : s.reading <;> simp only [launch, State.latch_reading, hr] at h
      · exact .inl ⟨rfl, h⟩
      · exact .inr ⟨rfl, by injection h with h; exact h.symm⟩
  · rw [hf] at h
    exact .inl ⟨rfl, by injection h with h; exact h.symm⟩

/-- Everything the engine's own step can do (rules R20, R33). -/
theorem engineStep_cases {s t : State} (h : engineStep s = .next t) :
    (s.busy = false ∧ t = s) ∨ (s.phase = .decode ∧ issue s = .next t) ∨
    (s.busy = true ∧ s.phase ≠ .decode ∧ t = microStep s) := by
  unfold engineStep at h
  cases hp : s.phase <;> rw [hp] at h
  case decode => exact .inr (.inl ⟨rfl, h⟩)
  case idle => exact .inl ⟨busy_eq_false.2 (.inl hp), by injection h with h; exact h.symm⟩
  case fault => exact .inl ⟨busy_eq_false.2 (.inr hp), by injection h with h; exact h.symm⟩
  all_goals exact .inr (.inr ⟨busy_eq_true.2 (by simp [hp]), by simp, by injection h with h; exact h.symm⟩)

/-- Everything a step can do: the engine's own step, where the host's program has ended or its next access is held, or the effect
of the host's next entry (rules R72, R262). -/
theorem step_cases {s t : State} (h : step s = .next t) :
    ((s.script = [] ∨ ∃ a rest, s.script = a :: rest ∧ held a = true ∧ s.busy = true) ∧ engineStep s = .next t) ∨
    ∃ a rest, s.script = a :: rest ∧ (held a = true → s.busy = false) ∧ takeEffect a rest s = .next t := by
  unfold step hostStep at h
  cases hs : s.script with
  | nil => rw [hs] at h; exact .inl ⟨.inl rfl, h⟩
  | cons a rest =>
    rw [hs] at h
    simp only [perform] at h
    cases ha : held a <;> cases hb : s.busy <;> simp only [ha, hb] at h
    all_goals first
      | exact .inr ⟨a, rest, rfl, by simp_all, h⟩
      | exact .inl ⟨.inr ⟨a, rest, rfl, ha, rfl⟩, h⟩

/-- Everything a write that takes effect can do (rules R21, R61). -/
theorem regWrite_cases {s t : State} {n : Nat} {v : RegVal} (h : regWrite s n v = .next t) :
    (∃ x, n = 0 ∧ v = .w8 x ∧ writeCmd x s = .next t) ∨ (∃ x, n = 3 ∧ v = .w16 x ∧ t = { s with klen := x }) ∨
    (∃ x, n = 4 ∧ v = .w16 x ∧ t = { s with blen := x }) ∨ (∃ x, n = 5 ∧ v = .w128 x ∧ t = { s with key := x }) ∨
    (∃ x, n = 6 ∧ v = .w128 x ∧ t = { s with din := x }) ∨ t = s := by
  unfold regWrite at h
  split at h
  · split at h
    · exact .inl ⟨_, rfl, rfl, h⟩
    all_goals (injection h with h; subst h)
    · exact .inr (.inl ⟨_, rfl, rfl, rfl⟩)
    · exact .inr (.inr (.inl ⟨_, rfl, rfl, rfl⟩))
    · exact .inr (.inr (.inr (.inl ⟨_, rfl, rfl, rfl⟩)))
    · exact .inr (.inr (.inr (.inr (.inl ⟨_, rfl, rfl, rfl⟩))))
    · exact .inr (.inr (.inr (.inr (.inr rfl))))
  · cases h

/-- Everything the effect of a host entry can do, apart from the host's own program and record: a reset, an engine step, a write to
`CMD`, a write to an operand register, or nothing (rules R97, R98, R250, R262). -/
theorem takeEffect_cases {a : HostAction} {rest : List HostAction} {s t : State} (h : takeEffect a rest s = .next t) :
    (a = .reset ∧ t = (s.continueWith rest).afterReset) ∨ (a = .engine ∧ engineStep (s.continueWith rest) = .next t) ∨
    (∃ x, (a = .wr 0 (.w8 x) ∨ ∃ i, a = .cmd i ∧ x = encode i) ∧ writeCmd x (s.continueWith rest) = .next t) ∨
    (∃ x, a = .wr 3 (.w16 x) ∧ t = { s with klen := x, script := rest }) ∨
    (∃ x, a = .wr 4 (.w16 x) ∧ t = { s with blen := x, script := rest }) ∨
    (∃ x, a = .wr 5 (.w128 x) ∧ t = { s with key := x, script := rest }) ∨
    (∃ x, a = .wr 6 (.w128 x) ∧ t = { s with din := x, script := rest }) ∨
    ∃ p l, t = { s with script := p, seen := l } := by
  have load : ∀ (m n : Nat) (x : Text) (more : List HostAction), ∃ p l, expand m n x more rest s = { s with script := p, seen := l } := by
    intro m n x more
    unfold expand
    split <;> exact ⟨_, _, rfl⟩
  have text : ∀ bits : Block128 → BitSeq, readText bits (s.continueWith rest) = .next t →
      ∃ p l, t = { s with script := p, seen := l } := by
    intro bits h
    unfold readText at h
    split at h <;> cases h
    exact ⟨_, _, rfl⟩
  cases a
  case rd n => injection h with h; subst h; exact .inr (.inr (.inr (.inr (.inr (.inr (.inr ⟨_, _, rfl⟩))))))
  case wr n v =>
    rcases regWrite_cases h with ⟨x, rfl, rfl, h⟩ | ⟨x, rfl, rfl, rfl⟩ | ⟨x, rfl, rfl, rfl⟩ | ⟨x, rfl, rfl, rfl⟩ | ⟨x, rfl, rfl, rfl⟩ | rfl
    · exact .inr (.inr (.inl ⟨x, .inl rfl, h⟩))
    · exact .inr (.inr (.inr (.inl ⟨x, rfl, rfl⟩)))
    · exact .inr (.inr (.inr (.inr (.inl ⟨x, rfl, rfl⟩))))
    · exact .inr (.inr (.inr (.inr (.inr (.inl ⟨x, rfl, rfl⟩)))))
    · exact .inr (.inr (.inr (.inr (.inr (.inr (.inl ⟨x, rfl, rfl⟩))))))
    · exact .inr (.inr (.inr (.inr (.inr (.inr (.inr ⟨_, _, rfl⟩))))))
  case cmd i => exact .inr (.inr (.inl ⟨_, .inr ⟨i, rfl, rfl⟩, h⟩))
  case reset => injection h with h; exact .inl ⟨rfl, h.symm⟩
  case engine => exact .inr (.inl ⟨rfl, h⟩)
  case wait => injection h with h; subst h; exact .inr (.inr (.inr (.inr (.inr (.inr (.inr ⟨_, _, rfl⟩))))))
  case rdOut64 => exact .inr (.inr (.inr (.inr (.inr (.inr (.inr (text (fun v => seqOf (feistelOperand v)) h)))))))
  case rdOut128 => exact .inr (.inr (.inr (.inr (.inr (.inr (.inr (text seqOf h)))))))
  all_goals
    injection h with h; subst h
    exact .inr (.inr (.inr (.inr (.inr (.inr (.inr (load _ _ _ _)))))))

/-- What no micro-step touches. -/
theorem microStep_frame (s : State) :
    (microStep s).cmd = s.cmd ∧ (microStep s).klen = s.klen ∧ (microStep s).blen = s.blen ∧ (microStep s).key = s.key ∧
    (microStep s).din = s.din ∧ (microStep s).reading = s.reading ∧ (microStep s).script = s.script ∧
    (microStep s).seen = s.seen := by
  unfold microStep stepFks stepFx stepSkx stepSenc stepSdec
  (repeat' split) <;> exact ⟨rfl, rfl, rfl, rfl, rfl, rfl, rfl, rfl⟩

/-- What no issue micro-step touches. -/
theorem start_frame (i : Instr) (s : State) :
    (start i s).cmd = s.cmd ∧ (start i s).klen = s.klen ∧ (start i s).blen = s.blen ∧ (start i s).key = s.key ∧
    (start i s).din = s.din ∧ (start i s).reading = s.reading ∧ (start i s).script = s.script ∧
    (start i s).seen = s.seen ∧ (start i s).fatal = s.fatal := by
  unfold start
  cases i <;> simp only [startFks, startFx, startSkx, startSenc, startSdec, keyCommand, transformCommand] <;> (repeat' split) <;>
    exact ⟨rfl, rfl, rfl, rfl, rfl, rfl, rfl, rfl, rfl⟩

/-- Every command answers a next state. -/
theorem exec_next (i : Instr) (s : State) : ∃ t, exec i s = .next t := by cases i <;> exact ⟨_, rfl⟩
/-- The engine's own step always answers a next state. -/
theorem engineStep_next (s : State) : ∃ t, engineStep s = .next t := by
  have hi : ∃ t, issue s = .next t := by
    unfold issue
    split
    · exact ⟨_, rfl⟩
    · split
      · exact ⟨_, rfl⟩
      · unfold launch
        split
        · exact exec_next _ _
        · exact ⟨_, rfl⟩
  cases hp : s.phase <;> simp only [engineStep, hp] <;> first | exact ⟨_, rfl⟩ | exact hi

/-- A run of one step more, where the step answers a next state. -/
theorem run_next (n : Nat) {s t : State} (h : step s = .next t) :
    Host.Core.run Sys2Proof.core (n + 1) s = Host.Core.run Sys2Proof.core n t := by
  have gen : ∀ (M : Host.Core) (s t : M.State), M.step s = .next t → M.run (n + 1) s = M.run n t := by
    intro M s t h; rw [Host.Core.run, h]
  exact gen Sys2Proof.core s t h

/-- A run whose first step is refused is refused. -/
theorem run_refused (n : Nat) {s : State} {r : Refusal} (h : step s = .refused r) :
    Host.Core.run Sys2Proof.core (n + 1) s = .refused r := by
  have gen : ∀ (M : Host.Core) (s : M.State) (r : M.Refusal), M.step s = .refused r → M.run (n + 1) s = .refused r := by
    intro M s r h; rw [Host.Core.run, h]
  exact gen Sys2Proof.core s r h

end Sys2Proof.Machine
end

