-- ==== Sys2Proof/Tests/Slice0.lean ====
section
/-! SUPPORT. The model's own tests: ill-formed and well-formed terms, the command words written out from rule R92, single steps
against the vectors of spec/95_test_vectors.md, and a witness for each statement that has hypotheses. -/

namespace Sys2Proof.Tests

open Sys2Proof.Machine

/-! ### Helpers -/

/-- What a question about the next state answers; none where there is no next state. -/
def asks {α : Type} (f : State → α) : Host.Outcome State Fault Refusal → Option α
  | .next t => some (f t)
  | .fault _ => none
  | .refused _ => none

/-- The reset state with a host program. -/
def host (p : List HostAction) : State := { State.reset with script := p }

/-- The key and block of vectors V1 and V3. -/
def feistelState : State :=
  { State.reset with klen := 64, blen := 64, key := 0x133457799BBCDFF1, din := 0x0123456789ABCDEF }

/-- The sixteen round keys of vector V3, as the spec prints them. -/
def bankV3 : FrkBank :=
  #v[0x1B02EFFC7072, 0x79AED9DBC9E5, 0x55FC8A42CF99, 0x72ADD6DB351D, 0x7CEC07EB53A8, 0x63A53E507B2F, 0xEC84B7F618BC,
     0xF78A3AC13BFB, 0xE0DBEBEDE781, 0xB1F347BA464F, 0x215FD3DED386, 0x7571F59467E9, 0x97C5D1FABA41, 0x5F43B7F2E73A,
     0xBF918D3D3F0A, 0xCB3D8B0E17F5]

/-- The state after FKS of vector V3. -/
def feistelKeyed : State := { feistelState with frk := bankV3, fkv := true }

/-- The key and block of vectors V2 and V4. -/
def spnState : State :=
  { State.reset with klen := 128, blen := 128, key := 0x2B7E151628AED2A6ABF7158809CF4F3C, din := 0x3243F6A8885A308D313198A2E0370734 }

/-- The forty-four words of vector V4, as the spec prints them. -/
def bankV4 : WBank :=
  (#v[0x2B7E1516, 0x28AED2A6, 0xABF71588, 0x09CF4F3C, 0xA0FAFE17, 0x88542CB1, 0x23A33939, 0x2A6C7605, 0xF2C295F2, 0x7A96B943,
     0x5935807A, 0x7359F67F, 0x3D80477D, 0x4716FE3E, 0x1E237E44, 0x6D7A883B, 0xEF44A541, 0xA8525B7F, 0xB671253B, 0xDB0BAD00,
     0xD4D1C6F8, 0x7C839D87] : Vector Word 22) ++
  (#v[0xCAF2B8BC, 0x11F915BC, 0x6D88A37A, 0x110B3EFD, 0xDBF98641, 0xCA0093FD, 0x4E54F70E, 0x5F5FC9F3, 0x84A64FB2, 0x4EA6DC4F,
     0xEAD27321, 0xB58DBAD2, 0x312BF560, 0x7F8D292F, 0xAC7766F3, 0x19FADC21, 0x28D12941, 0x575C006E, 0xD014F9A8, 0xC9EE2589,
     0xE13F0CC8, 0xB6630CA6] : Vector Word 22)

/-- The state after SKX of vector V4. -/
def spnKeyed : State := { spnState with w := bankV4, skv := true }

/-- An engine in the fatal state (rule R231). -/
def fatalState : State := { State.reset with phase := .fault, fatal := true, err := 4 }

/-- An engine in its first FKS round (rule R150). -/
def busyState : State := { State.reset with phase := .fksRun, rnd := 1 }

/-! ### Well-formedness: the check refuses an ill-formed term of each kind, and accepts well-formed ones -/

/-- A value too wide for `CMD` (rule R67). -/
theorem test_wf_cmd_too_wide : (HostAction.wr 0 (.w16 1)).wellFormed = false := by decide

/-- A value too narrow for `KLEN` (rule R67). -/
theorem test_wf_klen_too_narrow : (HostAction.wr 3 (.w8 64)).wellFormed = false := by decide

/-- Half of `KEY` (rule R67). -/
theorem test_wf_key_partial : (HostAction.wr 5 (.w32 1)).wellFormed = false := by decide

/-- A 32-bit value for a 48-bit bank entry (rules R21, R67). -/
theorem test_wf_frk_partial : (HostAction.wr 16 (.w32 1)).wellFormed = false := by decide

/-- Whole registers, a reserved index, and commands are well formed. -/
theorem test_wf_accepts :
    ((HostAction.wr 0 (.w8 1)).wellFormed && (HostAction.wr 4 (.w16 64)).wellFormed && (HostAction.wr 6 (.w128 1)).wellFormed &&
      (HostAction.wr 8 (.w8 1)).wellFormed && (HostAction.wr 76 .zero).wellFormed && Instr.sdec.wellFormed) = true := by decide

/-- The machine refuses the ill-formed write (rule R67). -/
theorem test_partial_write_refused : step (host [.wr 5 (.w32 1)]) = .refused (.partialAccess 5) := by rfl

/-! ### Decoding: the words of rule R92's binary column -/

/-- Feistel family. -/
theorem test_decode_feistel :
    decode 0b00000001 = .ok .fks ∧ decode 0b00000010 = .ok .fenc ∧ decode 0b00000011 = .ok .fdec := by decide

/-- SPN family. -/
theorem test_decode_spn :
    decode 0b00000101 = .ok .skx ∧ decode 0b00000110 = .ok .senc ∧ decode 0b00000111 = .ok .sdec := by decide

/-- Illegal words by name (rule R94); 0x0A is the word of program P3, step 5. -/
theorem test_decode_illegal :
    decode 0x00 = .error .reservedFunction ∧ decode 0x04 = .error .reservedFunction ∧ decode 0x0A = .error .reservedBits ∧
      decode 0xFF = .error .reservedBits := by decide

/-- The host's numbering of the table's words. -/
theorem test_decodeTableWord :
    decodeTableWord 8 1 = some .fks ∧ decodeTableWord 8 7 = some .sdec ∧ decodeTableWord 8 4 = none ∧
      decodeTableWord 16 1 = none := by decide

/-- A placed word runs as the very next step from reset: FENC with `BLEN = 0` fails with code 3 (program P3, step 1). -/
theorem test_withFetchWord :
    asks (fun t => (t.cmd, t.err, t.status)) (step (State.reset.withFetchWord 8 2)) = some (2, 3, 0x10) := by decide +kernel

/-! ### One command each, against the vectors of 95_test_vectors.md -/

/-- FKS (V3): the first and last round keys, `STATUS = 04`. -/
theorem test_fks :
    asks (fun t => (t.frk[0], t.frk[15], t.status)) (exec .fks feistelState) = some (0x1B02EFFC7072, 0xCB3D8B0E17F5, 0x04) := by
  decide +kernel

/-- FKS with a key of 60 bits fails with code 2, the bank not touched (program P3, step 3). -/
theorem test_fks_wrong_length :
    asks (fun t => (t.frk[0], t.err, t.status)) (exec .fks { feistelState with klen := 60 }) = some (0, 2, 0x10) := by
  decide +kernel

/-- FENC (V1): the ciphertext and `STATUS = 06`. -/
theorem test_fenc : asks (fun t => (t.doutRaw, t.status)) (exec .fenc feistelKeyed) = some (0x85E813540F0AB405, 0x06) := by
  decide +kernel

/-- FENC without a schedule fails with code 6 (program P3, step 2). -/
theorem test_fenc_no_schedule : asks (fun t => (t.err, t.status)) (exec .fenc feistelState) = some (6, 0x10) := by decide +kernel

/-- FDEC (V6): the plaintext of V1 back. -/
theorem test_fdec :
    asks (fun t => t.doutRaw) (exec .fdec { feistelKeyed with din := 0x85E813540F0AB405 }) = some 0x0123456789ABCDEF := by
  decide +kernel

/-- A failing FDEC hides the old result, which `DOUT.raw` still holds (program P3, step 6). -/
theorem test_fdec_wrong_length :
    asks (fun t => (t.err, t.status, t.doutRead, t.doutRaw))
      (exec .fdec { feistelKeyed with blen := 128, dv := true, doutRaw := 0x85E813540F0AB405 }) =
        some (3, 0x14, 0, 0x85E813540F0AB405) := by decide +kernel

/-- SKX (V4): `W[0]`, `W[4]`, `W[40]`, `W[43]`. -/
theorem test_skx :
    asks (fun t => (t.w[0], t.w[4], t.w[40], t.w[43])) (exec .skx spnState) =
      some (0x2B7E1516, 0xA0FAFE17, 0xD014F9A8, 0xB6630CA6) := by decide +kernel

/-- SENC (V2): the ciphertext and `STATUS = 0A`. -/
theorem test_senc :
    asks (fun t => (t.doutRaw, t.status)) (exec .senc spnKeyed) = some (0x3925841D02DC09FBDC118597196A0B32, 0x0A) := by
  decide +kernel

/-- SENC with the Feistel length fails with code 3 (program P4). -/
theorem test_senc_wrong_length : asks (fun t => t.err) (exec .senc { spnKeyed with blen := 64 }) = some 3 := by decide +kernel

/-- SDEC (program P2): the plaintext of V2 back. -/
theorem test_sdec :
    asks (fun t => t.doutRaw) (exec .sdec { spnKeyed with din := 0x3925841D02DC09FBDC118597196A0B32 }) =
      some 0x3243F6A8885A308D313198A2E0370734 := by decide +kernel

/-! ### Primitives, against V1, V2, V3, V5 -/

/-- Round 1 of V1: the S-layer and the round function. -/
theorem test_feistel_round_one :
    feistelSL 0x6117BA866527 = 0x5C82B597 ∧ feistelF 0xF0AAF0AA 0x1B02EFFC7072 = 0x234AA9BB := by decide +kernel

/-- The key halves of V3 and their first rotation. -/
theorem test_key_halves :
    ksC0 0x133457799BBCDFF1 = 0xF0CCAAF ∧ ksD0 0x133457799BBCDFF1 = 0x556678F ∧ rotl (0xF0CCAAF : Half28) 1 = 0xE19955F := by
  decide +kernel

/-- The forward layers of round 1 of V2. -/
theorem test_spn_layers :
    spnSB 0x193DE3BEA0F4E22B9AC68D2AE9F84808 = 0xD42711AEE0BF98F1B8B45DE51E415230 ∧
    spnSR 0xD42711AEE0BF98F1B8B45DE51E415230 = 0xD4BF5D30E0B452AEB84111F11E2798E5 ∧
    spnMC 0xD4BF5D30E0B452AEB84111F11E2798E5 = 0x046681E5E0CB199A48F8D37A2806264C := by decide +kernel

/-- The inverse layers take the same values back. -/
theorem test_spn_inverse_layers :
    spnISB 0xD42711AEE0BF98F1B8B45DE51E415230 = 0x193DE3BEA0F4E22B9AC68D2AE9F84808 ∧
    spnISR 0xD4BF5D30E0B452AEB84111F11E2798E5 = 0xD42711AEE0BF98F1B8B45DE51E415230 ∧
    spnIMC 0x046681E5E0CB199A48F8D37A2806264C = 0xD4BF5D30E0B452AEB84111F11E2798E5 := by decide +kernel

/-- The multiplier's worked values (V5, two of them the source's). -/
theorem test_multiplier :
    mulBy2 0xD4 = 0xB3 ∧ mulBy3 0xBF = 0xDA ∧ gmul 0x57 0x13 = 0xFE ∧ gmul 0x57 0x83 = 0xC1 ∧ gmul 0x8D 0x0E = 0x07 := by
  decide +kernel

/-- The Codec accepts lower case and rejects `12G4` (program P6). -/
theorem test_codec :
    hexToBits ['b', 'C'] = .ok [true, false, true, true, true, true, false, false] ∧
    hexToBits ['1', '2', 'G', '4'] = .error .invalidEncoding := by decide

/-- A byte buffer is the bit sequence of its two digits a byte, the first digit the high nibble (rule R114). -/
theorem test_bytes : hexToBits ['2', 'B', '7', 'E'] = .ok (bytesToBits [0x2B, 0x7E]) := by decide

/-! ### The sequencer, one micro-step against the traces -/

/-- The first FKS micro-step writes `FRK[1]` of V3 and counts. -/
theorem test_fks_micro_step :
    ((microStep (start .fks feistelState)).frk[0], (microStep (start .fks feistelState)).rnd.toNat) = (0x1B02EFFC7072, 2) := by
  decide +kernel

/-- The first FENC micro-step gives `L_1`, `R_1` of V1. -/
theorem test_fenc_micro_step :
    ((microStep (start .fenc feistelKeyed)).work.l, (microStep (start .fenc feistelKeyed)).work.r) = (0xF0AAF0AA, 0xEF4A6544) := by
  decide +kernel

/-- The first SKX micro-step writes `W[4]` of V4 and keeps its `T`. -/
theorem test_skx_micro_step :
    ((microStep (start .skx spnState)).w[4], (microStep (start .skx spnState)).work.t) = (0xA0FAFE17, 0x8B84EB01) := by
  decide +kernel

/-- The first SENC micro-step gives round 1 of V2. -/
theorem test_senc_micro_step :
    (microStep (start .senc spnKeyed)).work.st = 0xA49C7FF2689F352B6B5BEA43026A5049 := by decide +kernel

/-- A held access leaves the step to the engine (rule R72). -/
theorem test_hold : asks (fun t => (t.script, t.seen)) (step { busyState with script := [.rd 7] }) = some ([.rd 7], []) := by
  decide +kernel

/-! ### Witnesses: each statement's hypotheses are met together -/

theorem witness_ResetFromAnyState :
    ∃ (s : State) (rest : List HostAction), s.script = .reset :: rest ∧ s.phase = .fault :=
  ⟨{ fatalState with script := [.reset, .rd 1] }, [.rd 1], rfl, rfl⟩

theorem witness_ReadsChangeNothing_idle :
    ∃ (s : State) (n : Nat) (rest : List HostAction), s.script = .rd n :: rest ∧ s.busy = false ∧ n ≠ 1 :=
  ⟨host [.rd 7], 7, [], rfl, rfl, by decide⟩

theorem witness_ReadsChangeNothing_busy :
    ∃ (s : State) (n : Nat) (rest : List HostAction), s.script = .rd n :: rest ∧ n = 1 ∧ s.busy = true :=
  ⟨{ busyState with script := [.rd 1] }, 1, [], rfl, rfl, rfl⟩

theorem witness_OperandWritesStore :
    ∃ (s3 s4 s5 s6 : State) (rest : List HostAction),
      (s3.busy = false ∧ s3.script = .wr 3 (.w16 0xFFFF) :: rest) ∧ (s4.busy = false ∧ s4.script = .wr 4 (.w16 0) :: rest) ∧
      (s5.busy = false ∧ s5.script = .wr 5 (.w128 1) :: rest) ∧ (s6.busy = false ∧ s6.script = .wr 6 (.w128 2) :: rest) :=
  ⟨host [.wr 3 (.w16 0xFFFF)], host [.wr 4 (.w16 0)], host [.wr 5 (.w128 1)], host [.wr 6 (.w128 2)], [],
    ⟨rfl, rfl⟩, ⟨rfl, rfl⟩, ⟨rfl, rfl⟩, ⟨rfl, rfl⟩⟩

theorem witness_ReadOnlyAndReservedWritesIgnored :
    ∀ x ∈ ([(1, .w8 9), (2, .w8 9), (7, .w128 9), (8, .w8 9), (15, .zero), (16, .w48 9), (31, .w48 9), (32, .w32 9), (75, .w32 9),
        (76, .w8 9)] : List (Nat × RegVal)),
      (host [.wr x.1 x.2]).busy = false ∧ (host [.wr x.1 x.2]).script = .wr x.1 x.2 :: [] ∧
      (x.1 = 1 ∨ x.1 = 2 ∨ x.1 = 7 ∨ 8 ≤ x.1) ∧ ∀ k, regWidth x.1 = some k → x.2.width = k := by
  intro x hx
  refine ⟨rfl, rfl, ?_, ?_⟩
  · revert x; decide
  · simp only [List.mem_cons, List.not_mem_nil, or_false] at hx
    rcases hx with rfl | rfl | rfl | rfl | rfl | rfl | rfl | rfl | rfl | rfl <;> simp [regWidth, RegVal.width]

theorem witness_PartialWritesRefused :
    ∃ (s : State) (n k : Nat) (v : RegVal) (rest : List HostAction), s.busy = false ∧ s.script = .wr n v :: rest ∧
      regWidth n = some k ∧ v.width ≠ k :=
  ⟨host [.wr 5 (.w32 1)], 5, 128, .w32 1, [], rfl, rfl, rfl, by decide⟩

theorem witness_HoldRule :
    ∀ a ∈ ([.rd 0, .wr 6 (.w128 1), .cmd .fks, .rdOut64, .rdOut128] : List HostAction),
      { busyState with script := [a] }.busy = true ∧ { busyState with script := [a] }.script = a :: [] ∧
      ((∃ n, n ≠ 1 ∧ a = .rd n) ∨ (∃ n v, a = .wr n v) ∨ (∃ i, a = .cmd i) ∨ a = .rdOut64 ∨ a = .rdOut128) := by
  intro a ha
  refine ⟨rfl, rfl, ?_⟩
  simp only [List.mem_cons, List.not_mem_nil, or_false] at ha
  rcases ha with rfl | rfl | rfl | rfl | rfl <;> simp

theorem witness_HeldAccessSeesFinalResults :
    ∃ (s t : State) (i : Instr) (a : HostAction) (rest : List HostAction), s.phase = .idle ∧ s.fatal = false ∧
      s.reading = .whole ∧ s.script = .cmd i :: a :: rest ∧ held a = true ∧ step s = .next t ∧ t.err = 0 :=
  ⟨{ feistelKeyed with script := [.cmd .fenc, .rd 7] }, _, .fenc, .rd 7, [], rfl, rfl, rfl, rfl, rfl, rfl, rfl⟩

theorem witness_HeldAccessSeesFinalResults_failing :
    ∃ (s t : State) (i : Instr) (a : HostAction) (rest : List HostAction), s.phase = .idle ∧ s.fatal = false ∧
      s.reading = .whole ∧ s.script = .wr 0 (.w8 (encode i)) :: a :: rest ∧ held a = true ∧ step s = .next t ∧ t.err ≠ 0 :=
  ⟨host [.wr 0 (.w8 2), .wr 6 (.w128 1)], _, .fenc, .wr 6 (.w128 1), [], rfl, rfl, rfl, rfl, rfl, rfl, by decide⟩

theorem witness_CmdWriteRunsTheDecodedCommand :
    ∃ (s u v : State) (x : BitVec 8) (i : Instr) (rest : List HostAction),
      (s.busy = false ∧ s.fatal = false ∧ decode x = .ok i ∧ s.script = .wr 0 (.w8 x) :: rest ∧ s.reading = .whole) ∧
      (u.busy = false ∧ u.fatal = false ∧ u.script = .cmd i :: rest ∧ x = encode i ∧ u.reading = .whole) ∧
      (v.busy = false ∧ v.fatal = false ∧ v.script = .cmd i :: rest ∧ x = encode i ∧ v.reading = .stepwise) :=
  ⟨host [.wr 0 (.w8 7)], host [.cmd .sdec], { host [.cmd .sdec] with reading := .stepwise }, 7, .sdec, [],
    ⟨rfl, rfl, rfl, rfl, rfl⟩, ⟨rfl, rfl, rfl, rfl, rfl⟩, ⟨rfl, rfl, rfl, rfl, rfl⟩⟩

theorem witness_IllegalWordChangesOnlyCmdAndErr :
    ∃ (s : State) (x : BitVec 8) (rest : List HostAction), s.phase = .idle ∧ s.rnd = 0 ∧ s.fatal = false ∧
      s.script = .wr 0 (.w8 x) :: rest ∧ (x.extractLsb' 3 5 ≠ 0 ∨ x.extractLsb' 0 2 = 0) :=
  ⟨host [.wr 0 (.w8 8)], 8, [], rfl, rfl, rfl, rfl, .inl (by decide)⟩

theorem witness_IllegalWord_reservedFunction :
    ∀ x ∈ ([0x00, 0x04] : List (BitVec 8)), (host [.wr 0 (.w8 x)]).script = .wr 0 (.w8 x) :: [] ∧ x.extractLsb' 0 2 = 0 := by
  decide

theorem witness_OnlyResetLeavesTheFatalState :
    ∃ (s t : State) (x : BitVec 8) (rest : List HostAction), s.phase = .fault ∧ s.fatal = true ∧
      s.script = .wr 0 (.w8 x) :: rest ∧ step s = .next t ∧ s.script.head? ≠ some .reset :=
  ⟨{ fatalState with script := [.wr 0 (.w8 1)] }, _, 1, [], rfl, rfl, rfl, rfl, by decide⟩

theorem witness_OutOfRangeIndexIsFatal :
    ∀ x ∈ ([(.fksRun, 0), (.fksRun, 17), (.fxRun, 0), (.fxRun, 17), (.skxRun, 3), (.skxRun, 44), (.sencRun, 0), (.sencRun, 11),
        (.sdecRun, 10), (.sdecRun, 63)] : List (Phase × BitVec 6)),
      (x.1 = .fksRun ∧ (x.2 = 0 ∨ 16 < x.2.toNat)) ∨ (x.1 = .fxRun ∧ (x.2 = 0 ∨ 16 < x.2.toNat)) ∨
      (x.1 = .skxRun ∧ (x.2.toNat < 4 ∨ 43 < x.2.toNat)) ∨ (x.1 = .sencRun ∧ (x.2 = 0 ∨ 10 < x.2.toNat)) ∨
      (x.1 = .sdecRun ∧ 9 < x.2.toNat) := by decide

theorem witness_FksWritesTheKeySchedule :
    feistelState.klen = 64 ∧
      ksC0 (feistelOperand feistelState.key) ++ ksD0 (feistelOperand feistelState.key) =
        perm 56 tabPC1 (feistelState.key.extractLsb' 0 64) := by decide +kernel

theorem witness_FencAndFdecTransformTheBlock : feistelKeyed.blen = 64 ∧ feistelKeyed.fkv = true := by decide

theorem witness_SkxWritesTheKeyExpansion : spnState.klen = 128 := by decide

theorem witness_SencAndSdecTransformTheBlock : spnKeyed.blen = 128 ∧ spnKeyed.skv = true := by decide

theorem witness_WrongKeyLengthFails :
    State.reset.klen ≠ 64 ∧ spnState.klen ≠ 64 ∧ feistelState.klen ≠ 128 ∧ feistelState.klen = 64 ∧ spnState.klen = 128 := by decide

theorem witness_WrongBlockLengthFails :
    ∀ i ∈ ([.fenc, .fdec, .senc, .sdec] : List Instr),
      (i = .fenc ∨ i = .fdec) ∧ State.reset.blen ≠ 64 ∨ (i = .senc ∨ i = .sdec) ∧ feistelKeyed.blen ≠ 128 := by decide

theorem witness_MissingScheduleFails :
    (feistelState.blen = 64 ∧ feistelState.fkv = false) ∧ (spnState.blen = 128 ∧ spnState.skv = false) := by decide

theorem witness_EngineNeverWritesOperands :
    ∀ a ∈ ([.wr 3 (.w16 1), .wr 4 (.w16 1), .wr 5 (.w128 1), .wr 6 (.w128 1), .wr 0 (.w8 0xFF), .cmd .fks] : List HostAction),
      (∃ t, step (host [a]) = .next t) ∧ (host [a]).script.head? ≠ some .reset ∧
      asks (fun t => decide (t.klen ≠ 0 ∨ t.blen ≠ 0 ∨ t.key ≠ 0 ∨ t.din ≠ 0 ∨ t.cmd ≠ 0)) (step (host [a])) = some true := by
  intro a ha
  simp only [List.mem_cons, List.not_mem_nil, or_false] at ha
  rcases ha with rfl | rfl | rfl | rfl | rfl | rfl <;> exact ⟨⟨_, rfl⟩, by simp [host], by decide +kernel⟩

theorem witness_BanksChangeOnlyByTheirKeyCommand :
    (asks (fun t => decide (t.frk[0] ≠ 0)) (step { feistelState with script := [.cmd .fks] }) = some true ∧
      feistelState.phase ≠ .decode) ∧
    asks (fun t => decide (t.w[0] ≠ 0)) (step { spnState with script := [.wr 0 (.w8 5)] }) = some true := by decide +kernel

theorem witness_KeyCommandsDependOnKeyAlone :
    ∃ s s' t t' u u' : State, s.klen = s'.klen ∧ s.key ≠ s'.key ∧ s.key.extractLsb' 0 64 = s'.key.extractLsb' 0 64 ∧
      exec .fks s = .next t ∧ exec .fks s' = .next t' ∧ exec .skx spnState = .next u ∧
      exec .skx { spnState with din := 0 } = .next u' :=
  ⟨feistelState, { feistelState with key := feistelState.key ||| (1 <<< 127), din := 0 }, _, _, _, _, rfl, by decide +kernel,
    by decide +kernel, rfl, rfl, rfl, rfl⟩

theorem witness_TransformsDependOnBlockAndBankAlone :
    ∃ s s' t t' u u' : State, s.blen = s'.blen ∧ s.din ≠ s'.din ∧ s.din.extractLsb' 0 64 = s'.din.extractLsb' 0 64 ∧
      s.frk = s'.frk ∧ s.fkv = s'.fkv ∧ exec .fdec s = .next t ∧ exec .fdec s' = .next t' ∧
      exec .senc spnKeyed = .next u ∧ exec .senc { spnKeyed with key := 0 } = .next u' :=
  ⟨feistelKeyed, { feistelKeyed with din := feistelKeyed.din ||| (1 <<< 64), key := 0 }, _, _, _, _, rfl, by decide +kernel,
    by decide +kernel, rfl, rfl, rfl, rfl, rfl, rfl⟩

theorem witness_PermutationCopiesPositions : tabPC2.length = 48 ∧ 1 ≤ 48 ∧ 48 ≤ tabPC2.length := by decide

theorem witness_KeyScheduleIgnoresParity : (0x0101010101010101 : Block64) &&& 0xFEFEFEFEFEFEFEFE = 0 := by decide

theorem witness_FeistelRoundTrip : ∀ i : Fin 16, (frkReversed bankV3)[i] = bankV3[15 - i.val] := by decide

theorem witness_DecryptCommandUndoesEncryptCommand :
    ∃ t u t' u' : State, exec .fenc feistelKeyed = .next t ∧ exec .fdec { t with din := t.doutRaw } = .next u ∧
      exec .senc spnKeyed = .next t' ∧ exec .sdec { t' with din := t'.doutRaw } = .next u' ∧
      feistelKeyed.blen = 64 ∧ feistelKeyed.fkv = true ∧ spnKeyed.blen = 128 ∧ spnKeyed.skv = true :=
  ⟨_, _, _, _, rfl, rfl, rfl, rfl, rfl, rfl, rfl, rfl⟩

theorem witness_FieldMultiplication :
    mulBy2 0x80 = mulBy2 0x80 ∧ (0x53 : Byte) ≠ 0 ∧ gmul 0x53 0xCA = 1 := by decide +kernel

theorem witness_FksMicroSteps : ∃ t, feistelState.klen = 64 ∧ exec .fks feistelState = .next t := ⟨_, rfl, rfl⟩

theorem witness_FeistelMicroSteps :
    ∃ s s' t t' : State, s.blen = 64 ∧ s.fkv = true ∧ s.work.dir = (encode .fenc).getLsbD 0 ∧ exec .fenc s = .next t ∧
      s'.blen = 64 ∧ s'.fkv = true ∧ s'.work.dir = (encode .fdec).getLsbD 0 ∧ exec .fdec s' = .next t' :=
  ⟨feistelKeyed, { feistelKeyed with work := { Work.zero with dir := true } }, _, _, rfl, rfl, rfl, rfl, rfl, rfl, rfl, rfl⟩

theorem witness_SkxMicroSteps : ∃ t, spnState.klen = 128 ∧ exec .skx spnState = .next t := ⟨_, rfl, rfl⟩

theorem witness_SpnMicroSteps :
    ∃ t u, spnKeyed.blen = 128 ∧ spnKeyed.skv = true ∧ exec .senc spnKeyed = .next t ∧ exec .sdec spnKeyed = .next u :=
  ⟨_, _, rfl, rfl, rfl, rfl⟩

theorem witness_FailedValidationTakesOneStep :
    ∀ i : Instr, ∃ t, exec i State.reset = .next t ∧ t.err ≠ 0 := by
  intro i
  cases i <;> exact ⟨_, rfl, by decide⟩

theorem witness_EveryStepKeepsTheSequencerInvariant : ∃ s t : State, s.Inv ∧ s.busy = true ∧ step s = .next t :=
  ⟨busyState, _, ⟨rfl, ⟨by decide, by decide, rfl⟩, .inl rfl⟩, rfl, rfl⟩

theorem witness_EveryStepKeepsTheBanksWhole : ∃ s t : State, s.SessionInv ∧ s.fkv = true ∧ step s = .next t :=
  ⟨{ State.reset with frk := feistelKS 0, fkv := true }, _, ⟨⟨rfl, rfl, .inl rfl⟩, ⟨fun _ => ⟨0, rfl⟩, nofun⟩, ⟨nofun, nofun⟩⟩,
    rfl, rfl⟩

theorem witness_NoRunReachesTheFatalState : ∃ s t : State, s.Inv ∧ Host.Core.run Sys2Proof.core 2 s = .next t :=
  ⟨host [.cmd .fks, .rd 2], _, ⟨rfl, rfl, .inl rfl⟩, rfl⟩

theorem witness_BusyEngineEndsWithinFortySteps : busyState.Inv ∧ busyState.busy = true :=
  ⟨⟨rfl, ⟨by decide, by decide, rfl⟩, .inl rfl⟩, rfl⟩

theorem witness_HexToBitsLaws_digit : hexDigit 'c' = some 0b1100 ∧ hexDigit 'F' = some 0b1111 := by decide

theorem witness_HexToBitsLaws : ∃ b c, hexToBits ['0', 'f'] = .ok b ∧ hexToBits ['A'] = .ok c := ⟨_, _, rfl, rfl⟩

theorem witness_CodecRoundTrip :
    ∃ b, hexToBits ['0', 'f'] = .ok b ∧ b.length % 4 = 0 ∧ [true].length % 4 ≠ 0 := ⟨_, rfl, by decide, by decide⟩

theorem witness_LoadKeyExpandsOrFailsAtTheBoundary :
    ∀ a ∈ ([.ldKey [], .ldBlk [], .fKey [], .sKey []] : List HostAction), (host [a, .rd 2]).script = a :: [.rd 2] ∧
      hexToBits [] = .ok [] := by
  intro a _
  exact ⟨rfl, rfl⟩

theorem witness_LoadKeyExpandsOrFailsAtTheBoundary_badText :
    ∀ a ∈ ([.ldKey ['1', 'G'], .ldBlk ['1', 'G'], .fKey ['1', 'G'], .sKey ['1', 'G']] : List HostAction),
      (host [a]).script = a :: [] ∧ ∃ c ∈ ['1', 'G'], hexDigit c = none := by
  intro a _
  exact ⟨rfl, 'G', by simp, rfl⟩

theorem witness_Wait :
    (host [.wait]).script = .wait :: [] ∧ (host [.wait]).busy = false ∧
      { busyState with script := [.wait] }.script = .wait :: [] ∧ { busyState with script := [.wait] }.busy = true := by
  decide

theorem witness_ReadDoutAsText :
    ∃ (s u : State) (rest : List HostAction), s.busy = false ∧ s.script = .rdOut64 :: rest ∧ u.busy = false ∧
      u.script = .rdOut128 :: rest :=
  ⟨host [.rdOut64], host [.rdOut128], [], rfl, rfl, rfl, rfl⟩

theorem witness_InstancesDoNotInterfere :
    (System.reset 2).engines[0]? = some State.reset ∧ (System.reset 2).engines[1]? = some State.reset ∧
      (System.reset 2).engines.length = 2 := ⟨rfl, rfl, rfl⟩

/-- A transform that succeeds, a transform that hides an old result, an error, a command that ends in its last micro-step, and a
failing issue: the five clauses. -/
theorem witness_ResultAndErrorChangeOnlyByCommands :
    asks (fun t => decide (t.doutRaw ≠ 0)) (step { feistelKeyed with script := [.cmd .fenc] }) = some true ∧
    asks (fun t => t.dv) (step { State.reset with dv := true, script := [.wr 0 (.w8 6)] }) = some false ∧
    asks (fun t => t.err) (step (host [.wr 0 (.w8 8)])) = some 5 ∧
    asks (fun t => (t.busy, t.err)) (step { busyState with rnd := 16, err := 2 }) = some (false, 0) ∧
    asks (fun t => (t.busy, t.err)) (step { host [.cmd .skx] with reading := .stepwise }) = some (false, 2) := by decide +kernel

/-- The issuing entries of the statement, and a running transform. -/
theorem witness_transforms :
    { feistelKeyed with script := [.cmd .fenc] }.transforms ∧ (host [.wr 0 (.w8 7)]).transforms ∧
      { State.reset with phase := .sencRun }.transforms :=
  ⟨.inr (.inr (.inr ⟨2, .fenc, rfl, rfl, .inl rfl⟩)), .inr (.inr (.inr ⟨7, .sdec, rfl, rfl, .inr (.inr (.inr rfl))⟩)), .inr (.inl rfl)⟩

/-- `TabRead` at the ends of a range that starts at 1 and of one that starts at 0 (rule R62). -/
theorem test_tabRead_ends :
    tabRead .ip 0 = none ∧ tabRead .ip 1 = some 58 ∧ tabRead .ip 64 = some 7 ∧ tabRead .ip 65 = none ∧ tabRead (.s 7) 64 = none ∧
      tabRead .rcon 0 = some 1 ∧ tabRead .rcon 9 = some 0x36 ∧ tabRead .rcon 10 = none := by decide +kernel

end Sys2Proof.Tests
end

section
/-! Output positions of a permutation (rules R9, R11, R120). -/

namespace Sys2Proof.Machine

/-- Position `q` counts from the left, so it is bit `m - q` of the number the table folds up, and the entry read there is the
`q`-th one of the table. -/
theorem pos_perm {n : Nat} (T : List Nat) (v : BitVec n) {q : Nat} (h1 : 1 ≤ q) (hq : q ≤ T.length) :
    pos (perm T.length T v) q = pos v (T.getD (q - 1) 0) := by
  have hbit : T.length - q < T.length := by omega
  have hentry : T.length - 1 - (T.length - q) = q - 1 := by omega
  calc pos (perm T.length T v) q
      = (T.foldl (fun acc p => 2 * acc + (pos v p).toNat) 0).testBit (T.length - q) := by
        rw [pos, perm, BitVec.getLsbD_ofNat, decide_eq_true hbit, Bool.true_and]
    _ = pos v (T.getD (T.length - 1 - (T.length - q)) 0) := perm_fold_testBit v T _ hbit
    _ = pos v (T.getD (q - 1) 0) := by rw [hentry]

/-- Settles O33: the table's length is the width of the value it makes, so `pos_perm` says it of every position. -/
theorem permutationCopiesPositions : Obligations.PermutationCopiesPositions := by
  rintro n _ T v rfl q h1 hq
  exact pos_perm T v h1 hq

end Sys2Proof.Machine
end

section
/-! Everything a command, a micro-step of the sequencer and a step of the machine can leave, one constructor a case (rules R93,
R96, R150, R151, R196 to R198, R262), so that an invariant is proved case by case. -/

namespace Sys2Proof.Machine

/-- The commands that transform a block (rules R29, R93). -/
def Transforms (i : Instr) : Prop := i = .fenc ∨ i = .fdec ∨ i = .senc ∨ i = .sdec

/-- What a command whose validation fails leaves (rules R223, R224, R226, R228). -/
inductive CommandFails (s : State) (i : Instr) : State → Prop where
  | key (hi : i = .fks ∨ i = .skx) : CommandFails s i (s.fail .invalidKeyLength)
  | transform (hi : Transforms i) {e : ErrKind} (he : e = .invalidBlockLength ∨ e = .noSchedule) :
      CommandFails s i (s.clearDv.fail e)

/-- What a whole command leaves (rules R141, R147, R148, R183, R189, R194). -/
inductive CommandEnds (s : State) (i : Instr) : State → Prop where
  | fails {t : State} (h : CommandFails s i t) : CommandEnds s i t
  | fks (hi : i = .fks) : CommandEnds s i (s.installFrk (feistelKS (feistelOperand s.key))).succeed
  | skx (hi : i = .skx) : CommandEnds s i (s.installW (spnKX (spnOperand s.key))).succeed
  | transform (hi : Transforms i) (r : Block128) : CommandEnds s i (s.installDout r).succeed

/-- What the issue micro-step of a command leaves (rules R150, R151, R196 to R198). -/
inductive CommandStarts (s : State) (i : Instr) : State → Prop where
  | fails {t : State} (h : CommandFails s i t) : CommandStarts s i t
  | fks (hi : i = .fks) : CommandStarts s i (fksAfter s 0)
  | skx (hi : i = .skx) : CommandStarts s i (skxAfter s 0)
  | fx (hi : Transforms i) (hv : s.fkv = true) : CommandStarts s i (fxAfter s.clearDv 0)
  | senc (hi : Transforms i) (hv : s.skv = true) : CommandStarts s i (sencAfter s.clearDv 0)
  | sdec (hi : Transforms i) (hv : s.skv = true) : CommandStarts s i (sdecAfter s.clearDv 0)

/-- A key command does its work or fails for its length. -/
theorem keyCommand_eq {i : Instr} (hi : i = .fks ∨ i = .skx) (len : BitVec 16) (go : State → State) (s : State) :
    keyCommand len go s = go s ∨ CommandFails s i (keyCommand len go s) :=
  keyCommand_cases (P := fun t => t = go s ∨ CommandFails s i t) (fun _ => .inl rfl) fun _ => .inr (.key hi)

/-- A transform does its work, on a valid bank, or fails for its length or its missing schedule, with `DV` cleared either way. -/
theorem transformCommand_eq {i : Instr} (hi : Transforms i) (len : BitVec 16) (valid : Bool) (go : State → State) (s : State) :
    (valid = true ∧ transformCommand len valid go s = go s.clearDv) ∨ CommandFails s i (transformCommand len valid go s) :=
  transformCommand_cases (P := fun t => (valid = true ∧ t = go s.clearDv) ∨ CommandFails s i t)
    (fun _ hv => .inl ⟨hv, rfl⟩) (fun _ _ => .inr (.transform hi (.inr rfl))) fun _ => .inr (.transform hi (.inl rfl))

/-- A whole transform ends in one of the ways of `CommandEnds`. -/
theorem transformCommand_ends {i : Instr} (hi : Transforms i) (len : BitVec 16) (valid : Bool) (r : State → Block128) (s : State) :
    CommandEnds s i (transformCommand len valid (fun s => (s.installDout (r s)).succeed) s) := by
  rcases transformCommand_eq hi len valid (fun s => (s.installDout (r s)).succeed) s with ⟨-, h⟩ | h
  · rw [h]; exact .transform hi (r s.clearDv)
  · exact .fails h

/-- Every whole command ends in one of the ways of `CommandEnds`. -/
theorem exec_ends {i : Instr} {s t : State} (h : exec i s = .next t) : CommandEnds s i t := by
  cases i <;> cases h
  case fks =>
    rcases keyCommand_eq (.inl rfl) Config.feistelBits _ s with h | h
    · rw [h]; exact .fks rfl
    · exact .fails h
  case skx =>
    rcases keyCommand_eq (.inr rfl) Config.spnBits _ s with h | h
    · rw [h]; exact .skx rfl
    · exact .fails h
  case fenc => exact transformCommand_ends (.inl rfl) _ _ _ s
  case fdec => exact transformCommand_ends (.inr (.inl rfl)) _ _ _ s
  case senc => exact transformCommand_ends (.inr (.inr (.inl rfl))) _ _ _ s
  case sdec => exact transformCommand_ends (.inr (.inr (.inr rfl))) _ _ _ s

/-- The issue micro-step of FENC and FDEC leaves one of the states of `CommandStarts`. -/
theorem startFx_starts {i : Instr} (hi : Transforms i) (s : State) : CommandStarts s i (startFx s) := by
  unfold startFx
  rcases transformCommand_eq hi Config.feistelBits s.fkv _ s with ⟨hv, h⟩ | h
  · rw [h]; exact .fx hi hv
  · exact .fails h

/-- Every issue micro-step leaves one of the states of `CommandStarts`. -/
theorem start_starts (i : Instr) (s : State) : CommandStarts s i (start i s) := by
  cases i
  case fks =>
    show CommandStarts s _ (startFks s)
    unfold startFks
    rcases keyCommand_eq (.inl rfl) Config.feistelBits _ s with h | h
    · rw [h]; exact .fks rfl
    · exact .fails h
  case skx =>
    show CommandStarts s _ (startSkx s)
    unfold startSkx
    rcases keyCommand_eq (.inr rfl) Config.spnBits _ s with h | h
    · rw [h]; exact .skx rfl
    · exact .fails h
  case fenc => exact startFx_starts (.inl rfl) s
  case fdec => exact startFx_starts (.inr (.inl rfl)) s
  case senc =>
    show CommandStarts s _ (startSenc s)
    unfold startSenc
    rcases transformCommand_eq (i := .senc) (.inr (.inr (.inl rfl))) Config.spnBits s.skv _ s with ⟨hv, h⟩ | h
    · rw [h]; exact .senc (.inr (.inr (.inl rfl))) hv
    · exact .fails h
  case sdec =>
    show CommandStarts s _ (startSdec s)
    unfold startSdec
    rcases transformCommand_eq (i := .sdec) (.inr (.inr (.inr rfl))) Config.spnBits s.skv _ s with ⟨hv, h⟩ | h
    · rw [h]; exact .sdec (.inr (.inr (.inr rfl))) hv
    · exact .fails h

end Sys2Proof.Machine
end

section
/-! Everything a micro-step of a running command can leave (rules R150, R151, R196 to R198). -/

namespace Sys2Proof.Machine

/-- The working registers after round `RND` of FKS: `C` and `D` rotated by `SHIFT[RND]` (rule R150). -/
def fksWork (s : State) : Work :=
  { s.work with
    c := rotl s.work.c (tabSHIFT.getD (s.rnd.toNat - 1) 0), d := rotl s.work.d (tabSHIFT.getD (s.rnd.toNat - 1) 0) }

/-- The bank after round `RND` of FKS: `FRK[RND]` written from the rotated halves (rule R150). -/
def fksBank (s : State) : FrkBank := s.frk.setIfInBounds (s.rnd.toNat - 1) (ksCompress (fksWork s).c (fksWork s).d)

/-- The engine runs a transform (rule R33). -/
def State.runsTransform (s : State) : Prop := s.phase = .fxRun ∨ s.phase = .sencRun ∨ s.phase = .sdecRun

/-- What a micro-step of a running command leaves: the fatal state, where `RND` is out of its phase's range, a round more, or the
end of the command. -/
inductive MicroStepped (s : State) : State → Prop where
  | outOfRange (h : ¬ s.PhaseOk) : MicroStepped s s.raiseFatal
  | fksRound (hp : s.phase = .fksRun) (hl : 1 ≤ s.rnd.toNat) (hu : s.rnd.toNat < 16) :
      MicroStepped s { s with work := fksWork s, frk := fksBank s, rnd := s.rnd + 1 }
  | fksLast (hp : s.phase = .fksRun) (hr : s.rnd.toNat = 16) : MicroStepped s (s.installFrk (fksBank s)).succeed
  | skxRound (hp : s.phase = .skxRun) (hl : 4 ≤ s.rnd.toNat) (hu : s.rnd.toNat < 43) (k : Work) :
      MicroStepped s { s with work := k, w := kxStep s.w s.rnd.toNat, rnd := s.rnd + 1 }
  | skxLast (hp : s.phase = .skxRun) (hr : s.rnd.toNat = 43) : MicroStepped s (s.installW (kxStep s.w s.rnd.toNat)).succeed
  | fxRound (hp : s.phase = .fxRun) (hu : s.rnd.toNat < 16) (k : Work) : MicroStepped s { s with work := k, rnd := s.rnd + 1 }
  | sencRound (hp : s.phase = .sencRun) (hu : s.rnd.toNat < 10) (k : Work) : MicroStepped s { s with work := k, rnd := s.rnd + 1 }
  | sdecRound (hp : s.phase = .sdecRun) (hl : 1 ≤ s.rnd.toNat) (hu : s.rnd.toNat < 10) (k : Work) :
      MicroStepped s { s with work := k, rnd := s.rnd - 1 }
  | transformLast (hp : s.runsTransform) (r : Block128) : MicroStepped s (s.installDout r).succeed

section
variable {s : State}

/-! ### What consistency says in each running phase -/

theorem phaseOk_idle (h : s.phase = .idle) : s.PhaseOk ↔ s.rnd = 0 := by rw [State.PhaseOk, h]

theorem not_phaseOk_decode (h : s.phase = .decode) : ¬ s.PhaseOk := by rw [State.PhaseOk, h]; exact id

theorem phaseOk_fksRun (h : s.phase = .fksRun) : s.PhaseOk ↔ 1 ≤ s.rnd.toNat ∧ s.rnd.toNat ≤ 16 ∧ s.fkv = false := by
  rw [State.PhaseOk, h]

theorem phaseOk_fxRun (h : s.phase = .fxRun) :
    s.PhaseOk ↔ 1 ≤ s.rnd.toNat ∧ s.rnd.toNat ≤ 16 ∧ s.fkv = true ∧ s.dv = false := by
  rw [State.PhaseOk, h]

theorem phaseOk_skxRun (h : s.phase = .skxRun) : s.PhaseOk ↔ 4 ≤ s.rnd.toNat ∧ s.rnd.toNat ≤ 43 ∧ s.skv = false := by
  rw [State.PhaseOk, h]

theorem phaseOk_sencRun (h : s.phase = .sencRun) :
    s.PhaseOk ↔ 1 ≤ s.rnd.toNat ∧ s.rnd.toNat ≤ 10 ∧ s.skv = true ∧ s.dv = false := by
  rw [State.PhaseOk, h]

theorem phaseOk_sdecRun (h : s.phase = .sdecRun) : s.PhaseOk ↔ s.rnd.toNat ≤ 9 ∧ s.skv = true ∧ s.dv = false := by
  rw [State.PhaseOk, h]

/-! ### The micro-steps, phase by phase -/

/-- `SHIFT` has the indices 1 to 16 only (rules R62, R127). -/
theorem tabRead_shift_eq_none {i : Nat} (h : ¬ (1 ≤ i ∧ i ≤ 16)) : tabRead .shift i = none := by
  unfold tabRead
  split
  · have hi : 1 ≤ i := ‹_›
    exact List.getElem?_eq_none_iff.2 (show 16 ≤ i - 1 by omega)
  · rfl

/-- `FRK` has the indices 1 to 16 (rule R30). -/
theorem frkAt_eq_none_iff {i : Nat} : s.frkAt i = none ↔ ¬ (1 ≤ i ∧ i ≤ 16) := by
  unfold State.frkAt
  split
  · rw [List.getElem?_eq_none_iff, Vector.length_toList]; omega
  · simp only [true_iff]; omega

theorem stepFks_stepped (hp : s.phase = .fksRun) : MicroStepped s (stepFks s) := by
  unfold stepFks
  by_cases hr : 1 ≤ s.rnd.toNat ∧ s.rnd.toNat ≤ 16
  · simp only [tabRead_shift _ hr.1 hr.2]
    split
    · exact .fksLast hp ‹_›
    · exact .fksRound hp hr.1 (lt_of_le_of_ne hr.2 ‹_›)
  · simp only [tabRead_shift_eq_none hr]
    exact .outOfRange fun h => hr ⟨((phaseOk_fksRun hp).1 h).1, ((phaseOk_fksRun hp).1 h).2.1⟩

theorem stepFx_stepped (hp : s.phase = .fxRun) : MicroStepped s (stepFx s) := by
  have hk : s.frkAt (if s.work.dir then 17 - s.rnd.toNat else s.rnd.toNat) = none ↔ ¬ (1 ≤ s.rnd.toNat ∧ s.rnd.toNat ≤ 16) := by
    rw [frkAt_eq_none_iff]; split <;> omega
  unfold stepFx
  split
  · exact .outOfRange fun h => hk.1 ‹_› ⟨((phaseOk_fxRun hp).1 h).1, ((phaseOk_fxRun hp).1 h).2.1⟩
  · rename_i h
    have hr : s.rnd.toNat ≤ 16 := by by_contra hr; simp [hk.2 (by omega)] at h
    dsimp only
    split
    · exact .transformLast (.inl hp) _
    · exact .fxRound hp (lt_of_le_of_ne hr ‹_›) _

theorem stepSkx_stepped (hp : s.phase = .skxRun) : MicroStepped s (stepSkx s) := by
  unfold stepSkx
  split
  · rename_i h
    obtain ⟨hl, hu⟩ : 4 ≤ s.rnd.toNat ∧ s.rnd.toNat < 44 := h
    dsimp only
    split
    · exact .skxLast hp (Nat.succ.inj ‹_›)
    · have hr : s.rnd.toNat + 1 ≠ 44 := ‹_›
      exact .skxRound hp hl (by omega) _
  · rename_i hr
    refine .outOfRange fun h => hr ?_
    obtain ⟨hl, hu, -⟩ := (phaseOk_skxRun hp).1 h
    exact ⟨hl, show s.rnd.toNat < 44 by omega⟩

theorem stepSenc_stepped (hp : s.phase = .sencRun) : MicroStepped s (stepSenc s) := by
  have out (hr : ¬ (1 ≤ s.rnd.toNat ∧ s.rnd.toNat ≤ 10)) : MicroStepped s s.raiseFatal :=
    .outOfRange fun h => hr ⟨((phaseOk_sencRun hp).1 h).1, ((phaseOk_sencRun hp).1 h).2.1⟩
  unfold stepSenc
  split
  · exact out (by omega)
  · split
    · exact .sencRound hp ‹_› _
    · split
      · exact .transformLast (.inr (.inl hp)) _
      · have hr : ¬ s.rnd.toNat < 10 := ‹_›
        have hr' : s.rnd.toNat ≠ 10 := ‹_›
        exact out (by omega)

theorem stepSdec_stepped (hp : s.phase = .sdecRun) : MicroStepped s (stepSdec s) := by
  unfold stepSdec
  split
  · exact .transformLast (.inr (.inr hp)) _
  · split
    · exact .sdecRound hp (by omega) ‹_› _
    · exact .outOfRange fun h => ‹¬ _ < _› (Nat.lt_succ_of_le ((phaseOk_sdecRun hp).1 h).1)

/-- Every micro-step of a running command leaves one of the states of `MicroStepped`. -/
theorem microStep_stepped (hb : s.busy = true) (hd : s.phase ≠ .decode) : MicroStepped s (microStep s) := by
  obtain ⟨hi, hf⟩ := busy_eq_true.1 hb
  unfold microStep
  cases hp : s.phase
  case idle => exact absurd hp hi
  case decode => exact absurd hp hd
  case fault => exact absurd hp hf
  case fksRun => exact stepFks_stepped hp
  case fxRun => exact stepFx_stepped hp
  case skxRun => exact stepSkx_stepped hp
  case sencRun => exact stepSenc_stepped hp
  case sdecRun => exact stepSdec_stepped hp

end

end Sys2Proof.Machine
end

section
/-! Everything a step of the machine can do to the engine (rules R71, R72, R250, R262). -/

namespace Sys2Proof.Machine

/-- The registers the host writes, its program and its record: what a step may change beside the engine's own state. -/
structure HostSide where
  cmd : BitVec 8
  klen : BitVec 16
  blen : BitVec 16
  key : Block128
  din : Block128
  script : List HostAction
  seen : List Seen

/-- `s` with another host side; the engine's own state is that of `s`. -/
def State.withHost (s : State) (h : HostSide) : State :=
  { s with cmd := h.cmd, klen := h.klen, blen := h.blen, key := h.key, din := h.din, script := h.script, seen := h.seen }

/-- The host side of `s`. -/
def State.host (s : State) : HostSide := ⟨s.cmd, s.klen, s.blen, s.key, s.din, s.script, s.seen⟩

/-- What a step of the machine leaves, as the engine sees it: the reset state; the engine as it was, with another host side; or,
from such a state, what an issue or a micro-step leaves. -/
inductive Stepped (s : State) : State → Prop where
  | reset (hs : s.script.head? = some .reset) (rest : List HostAction) : Stepped s (s.continueWith rest).afterReset
  | host (h : HostSide) : Stepped s (s.withHost h)
  | resumed (hd : s.phase = .decode) (h : HostSide) {t : State} (ht : issue (s.withHost h) = .next t) : Stepped s t
  | issued (hb : s.busy = false) (h : HostSide) (hw : s.nextWord = some h.cmd) {t : State}
      (ht : issue (s.withHost h) = .next t) : Stepped s t
  | microStep (hb : s.busy = true) (hd : s.phase ≠ .decode) (h : HostSide) : Stepped s (microStep (s.withHost h))

/-- The engine's own step, taken beside any host side. -/
theorem engineStep_stepped {s t : State} (h : HostSide) (ht : engineStep (s.withHost h) = .next t) : Stepped s t := by
  rcases engineStep_cases ht with ⟨-, rfl⟩ | ⟨hd, ht⟩ | ⟨hb, hd, rfl⟩
  · exact .host h
  · exact .resumed (s := s) hd h ht
  · exact .microStep (s := s) hb hd h

/-- Every step of the machine leaves one of the states of `Stepped`. -/
theorem step_stepped {s t : State} (ht : step s = .next t) : Stepped s t := by
  rcases step_cases ht with ⟨-, ht⟩ | ⟨a, rest, hs, hb, ht⟩
  · exact engineStep_stepped s.host ht
  · rcases takeEffect_cases ht with ⟨rfl, rfl⟩ | ⟨rfl, ht⟩ | ⟨x, ha, ht⟩ | ⟨x, rfl, rfl⟩ | ⟨x, rfl, rfl⟩ | ⟨x, rfl, rfl⟩ |
      ⟨x, rfl, rfl⟩ | ⟨p, l, rfl⟩
    · exact .reset (by rw [hs]; rfl) rest
    · exact engineStep_stepped { s.host with script := rest } ht
    · have hw : s.nextWord = some x := by
        rcases ha with rfl | ⟨i, rfl, rfl⟩ <;> simp [State.nextWord, hs]
      have hh : held a = true := by rcases ha with rfl | ⟨i, rfl, rfl⟩ <;> rfl
      exact .issued (hb hh) { s.host with cmd := x, script := rest } hw ht
    · exact .host { s.host with klen := x, script := rest }
    · exact .host { s.host with blen := x, script := rest }
    · exact .host { s.host with key := x, script := rest }
    · exact .host { s.host with din := x, script := rest }
    · exact .host { s.host with script := p, seen := l }

end Sys2Proof.Machine
end

section
/-! The invariants of a run (rules R23, R24, R30, R31, R33, R37): the sequencer's, then the banks'. -/

namespace Sys2Proof.Machine

section
variable {s t : State} {i : Instr}

/-! ### The sequencer -/

/-- An idle engine that is not fatal is consistent. -/
theorem inv_of_idle (hf : s.fatal = false) (hp : s.phase = .idle) (hr : s.rnd = 0) (he : s.ErrOk) : s.Inv :=
  ⟨hf, (phaseOk_idle hp).2 hr, he⟩

/-- A command whose validation fails leaves the engine idle, with a code of its own. -/
theorem CommandFails.inv (h : CommandFails s i t) (hf : s.fatal = false) : t.Inv := by
  cases h with
  | key => exact inv_of_idle hf rfl rfl (.inr (.inl rfl))
  | transform _ he =>
    rcases he with rfl | rfl
    · exact inv_of_idle hf rfl rfl (.inr (.inr (.inl rfl)))
    · exact inv_of_idle hf rfl rfl (.inr (.inr (.inr (.inr rfl))))

theorem CommandEnds.inv (h : CommandEnds s i t) (hf : s.fatal = false) : t.Inv := by
  cases h with
  | fails h => exact h.inv hf
  | fks | skx | transform => exact inv_of_idle hf rfl rfl (.inl rfl)

/-- A command that starts has set its phase's first `RND` and has checked or cleared its phase's valid bits. -/
theorem CommandStarts.inv (h : CommandStarts s i t) (hf : s.fatal = false) (he : s.ErrOk) : t.Inv := by
  cases h with
  | fails h => exact h.inv hf
  | fks => exact ⟨hf, ⟨by simp [fksAfter], by simp [fksAfter], rfl⟩, he⟩
  | skx => exact ⟨hf, ⟨by simp [skxAfter], by simp [skxAfter], rfl⟩, he⟩
  | fx _ hv => exact ⟨hf, ⟨by simp [fxAfter], by simp [fxAfter], hv, rfl⟩, he⟩
  | senc _ hv => exact ⟨hf, ⟨by simp [sencAfter], by simp [sencAfter], hv, rfl⟩, he⟩
  | sdec _ hv => exact ⟨hf, ⟨by simp [sdecAfter], hv, rfl⟩, he⟩

/-- The issue step keeps a consistent engine consistent. -/
theorem issue_keeps_inv (h : s.Inv) (ht : issue s = .next t) : t.Inv := by
  have ⟨hf, _, he⟩ := h
  rcases issue_cases ht with ⟨-, rfl⟩ | ⟨-, -, rfl⟩ | ⟨i, -, -, ⟨-, ht⟩ | ⟨-, rfl⟩⟩
  · exact h
  · exact inv_of_idle hf rfl rfl (.inr (.inr (.inr (.inl rfl))))
  · exact (exec_ends ht).inv hf
  · exact (start_starts i _).inv hf he

/-- `RND` plus one, where `RND` is below the top of its range. -/
theorem rnd_add_one_mem {x : BitVec 6} {lo hi : Nat} (hl : lo ≤ x.toNat) (hu : x.toNat < hi) (h : hi < 64) :
    lo ≤ (x + 1).toNat ∧ (x + 1).toNat ≤ hi := by
  rw [rnd_add_one _ (by omega)]; omega

/-- A micro-step from a consistent state: `RND` is in range, so the command goes on, in range, or ends. -/
theorem MicroStepped.inv (ht : MicroStepped s t) (h : s.Inv) : t.Inv := by
  obtain ⟨hf, hp, he⟩ := h
  cases ht with
  | outOfRange h => exact absurd hp h
  | fksRound hph hl hu =>
    obtain ⟨-, -, hv⟩ := (phaseOk_fksRun hph).1 hp
    obtain ⟨hl', hu'⟩ := rnd_add_one_mem hl hu (by decide)
    exact ⟨hf, (phaseOk_fksRun (by exact hph)).2 ⟨hl', hu', hv⟩, he⟩
  | skxRound hph hl hu =>
    obtain ⟨-, -, hv⟩ := (phaseOk_skxRun hph).1 hp
    obtain ⟨hl', hu'⟩ := rnd_add_one_mem hl hu (by decide)
    exact ⟨hf, (phaseOk_skxRun (by exact hph)).2 ⟨hl', hu', hv⟩, he⟩
  | fxRound hph hu =>
    obtain ⟨hl, -, hv⟩ := (phaseOk_fxRun hph).1 hp
    obtain ⟨hl', hu'⟩ := rnd_add_one_mem hl hu (by decide)
    exact ⟨hf, (phaseOk_fxRun (by exact hph)).2 ⟨hl', hu', hv⟩, he⟩
  | sencRound hph hu =>
    obtain ⟨hl, -, hv⟩ := (phaseOk_sencRun hph).1 hp
    obtain ⟨hl', hu'⟩ := rnd_add_one_mem hl hu (by decide)
    exact ⟨hf, (phaseOk_sencRun (by exact hph)).2 ⟨hl', hu', hv⟩, he⟩
  | sdecRound hph hl hu =>
    obtain ⟨-, hv⟩ := (phaseOk_sdecRun hph).1 hp
    have hu' : (s.rnd - 1).toNat ≤ 9 := by rw [rnd_sub_one _ hl]; omega
    exact ⟨hf, (phaseOk_sdecRun (by exact hph)).2 ⟨hu', hv⟩, he⟩
  | fksLast | skxLast | transformLast => exact inv_of_idle hf rfl rfl (.inl rfl)

end

/-- Settles O50: after reset every valid bit is 0 and the engine is idle. -/
theorem resetSatisfiesTheInvariants : Obligations.ResetSatisfiesTheInvariants :=
  have inv : State.reset.Inv := inv_of_idle rfl rfl rfl (.inl rfl)
  ⟨inv, inv, ⟨nofun, nofun⟩, ⟨nofun, nofun⟩⟩

/-- Settles O51: a host access leaves the engine as it is, an issue ends or starts a command, and a micro-step finds `RND` in range. -/
theorem everyStepKeepsTheSequencerInvariant : Obligations.EveryStepKeepsTheSequencerInvariant := by
  intro s t h ht
  have ⟨_, hp, _⟩ := h
  cases step_stepped ht with
  | reset => exact resetSatisfiesTheInvariants.1
  | host => exact h
  | resumed hd => exact absurd hp (not_phaseOk_decode hd)
  | issued _ hs _ ht => exact issue_keeps_inv (s := s.withHost hs) h ht
  | microStep hb hd hs => exact (microStep_stepped (s := s.withHost hs) hb hd).inv h

section
variable {s t : State} {i : Instr}

/-! ### The banks -/

/-- A step that leaves `FRK` and `FKV` alone and no FKS running keeps the bank whole. -/
theorem frkOk_of_kept (h : s.FrkOk) (hv : t.fkv = s.fkv) (hb : t.frk = s.frk) (hp : t.phase ≠ .fksRun) : t.FrkOk :=
  ⟨fun hk => by rw [hb]; exact h.1 (hv ▸ hk), fun h => absurd h hp⟩

/-- A step that leaves `W` and `SKV` alone and no SKX running keeps the bank whole. -/
theorem wOk_of_kept (h : s.WOk) (hv : t.skv = s.skv) (hb : t.w = s.w) (hp : t.phase ≠ .skxRun) : t.WOk :=
  ⟨fun hk => by rw [hb]; exact h.1 (hv ▸ hk), fun h => absurd h hp⟩

/-- Entry `j` of the Feistel bank after a write at place `n`. -/
theorem frk_getD_set (b : FrkBank) (n j : Nat) (x : RoundKey) (hj : j < 16) :
    (b.setIfInBounds n x).toList.getD j 0 = if n = j then x else b.toList.getD j 0 := by
  rw [Vector.toList_setIfInBounds, List.getD_eq_getElem?_getD, List.getElem?_set, List.getD_eq_getElem?_getD]
  split
  · subst_vars; simp [hj]
  · rfl

/-- A bank that holds the sixteen round keys of `k` is its schedule (rule R142). -/
theorem eq_feistelKS {b : FrkBank} {k : Block64} (h : ∀ j, j < 16 → b.toList.getD j 0 = ksRoundKey k (j + 1)) :
    b = feistelKS k := by
  apply Vector.ext
  intro j hj
  simpa [hj, feistelKS] using h j hj

/-- One more round of FKS: its halves are those of round `RND`, and the bank holds the round keys up to `RND` (rules R142, R150). -/
theorem fks_round {k : Block64} (hl : 1 ≤ s.rnd.toNat) (hu : s.rnd.toNat ≤ 16)
    (hc : s.work.c = ksRotated (ksC0 k) (s.rnd.toNat - 1)) (hd : s.work.d = ksRotated (ksD0 k) (s.rnd.toNat - 1))
    (hb : ∀ j, j < s.rnd.toNat - 1 → s.frk.toList.getD j 0 = ksRoundKey k (j + 1)) :
    (fksWork s).c = ksRotated (ksC0 k) s.rnd.toNat ∧ (fksWork s).d = ksRotated (ksD0 k) s.rnd.toNat ∧
    ∀ j, j < s.rnd.toNat → (fksBank s).toList.getD j 0 = ksRoundKey k (j + 1) := by
  obtain ⟨n, hn⟩ : ∃ n, s.rnd.toNat = n + 1 := ⟨s.rnd.toNat - 1, by omega⟩
  have hc' : (fksWork s).c = ksRotated (ksC0 k) (n + 1) := by simp only [fksWork, hc, hn]; rfl
  have hd' : (fksWork s).d = ksRotated (ksD0 k) (n + 1) := by simp only [fksWork, hd, hn]; rfl
  rw [hn] at hb ⊢
  refine ⟨hc', hd', fun j hj => ?_⟩
  rw [fksBank, hc', hd', hn, frk_getD_set _ _ _ _ (by omega)]
  split
  · subst_vars; rfl
  · exact hb j (by omega)

/-- One more word of SKX: the words up to `W[i]` are the expansion's (rules R182, R196). -/
theorem kxStep_agrees {w : WBank} {k : Block128} {i : Nat} (h4 : 4 ≤ i) (hi : i < 44)
    (h : ∀ j, j < i → wAt w j = wAt (spnKX k) j) : ∀ j, j < i + 1 → wAt (kxStep w i) j = wAt (spnKX k) j := by
  intro j hj
  rw [wAt_kxStep _ _ _ (by omega)]
  split
  · subst_vars; rw [wAt_spnKX k _ h4 hi, h _ (by omega), h _ (by omega)]
  · exact h j (by omega)

theorem CommandFails.frkOk (h : CommandFails s i t) (hs : s.FrkOk) : t.FrkOk := by
  cases h <;> exact frkOk_of_kept hs rfl rfl nofun

theorem CommandFails.wOk (h : CommandFails s i t) (hs : s.WOk) : t.WOk := by
  cases h <;> exact wOk_of_kept hs rfl rfl nofun

/-- FKS writes a whole schedule; no other command touches the bank. -/
theorem CommandEnds.frkOk (h : CommandEnds s i t) (hs : s.FrkOk) : t.FrkOk := by
  cases h with
  | fails h => exact h.frkOk hs
  | fks => exact ⟨fun _ => ⟨_, rfl⟩, nofun⟩
  | skx | transform => exact frkOk_of_kept hs rfl rfl nofun

/-- SKX writes a whole expansion; no other command touches the bank. -/
theorem CommandEnds.wOk (h : CommandEnds s i t) (hs : s.WOk) : t.WOk := by
  cases h with
  | fails h => exact h.wOk hs
  | skx => exact ⟨fun _ => ⟨_, rfl⟩, nofun⟩
  | fks | transform => exact wOk_of_kept hs rfl rfl nofun

/-- FKS starts with no round key written, and `FKV` is 0. -/
theorem CommandStarts.frkOk (h : CommandStarts s i t) (hs : s.FrkOk) : t.FrkOk := by
  cases h with
  | fails h => exact h.frkOk hs
  | fks => exact ⟨nofun, fun _ => ⟨feistelOperand s.key, rfl, rfl, nofun⟩⟩
  | skx | fx | senc | sdec => exact frkOk_of_kept hs rfl rfl nofun

/-- SKX starts with the key's four words written, and `SKV` is 0. -/
theorem CommandStarts.wOk (h : CommandStarts s i t) (hs : s.WOk) : t.WOk := by
  cases h with
  | fails h => exact h.wOk hs
  | skx =>
    refine ⟨nofun, fun _ => ⟨spnOperand s.key, fun j (hj : j < 4) => ?_⟩⟩
    rw [wAt_spnKX_key _ _ hj]
    exact (wAt_kxLoad _ _ _ (by omega)).trans (if_pos hj)
  | fks | fx | senc | sdec => exact wOk_of_kept hs rfl rfl nofun

theorem issue_keeps_banks (hk : s.FrkOk) (hw : s.WOk) (ht : issue s = .next t) : t.FrkOk ∧ t.WOk := by
  have hk' : (s.latch s.cmd).FrkOk := frkOk_of_kept hk rfl rfl nofun
  have hw' : (s.latch s.cmd).WOk := wOk_of_kept hw rfl rfl nofun
  rcases issue_cases ht with ⟨-, rfl⟩ | ⟨-, -, rfl⟩ | ⟨i, -, -, ⟨-, ht⟩ | ⟨-, rfl⟩⟩
  · exact ⟨hk, hw⟩
  · exact ⟨frkOk_of_kept hk rfl rfl nofun, wOk_of_kept hw rfl rfl nofun⟩
  · exact ⟨(exec_ends ht).frkOk hk', (exec_ends ht).wOk hw'⟩
  · exact ⟨(start_starts i _).frkOk hk', (start_starts i _).wOk hw'⟩

/-- A micro-step of FKS writes the round key of its round; the sixteenth makes the bank whole (rule R150). -/
theorem MicroStepped.frkOk (ht : MicroStepped s t) (hi : s.PhaseOk) (h : s.FrkOk) : t.FrkOk := by
  cases ht with
  | fksRound hp hl hu =>
    obtain ⟨-, -, hv⟩ := (phaseOk_fksRun hp).1 hi
    obtain ⟨k, hc, hd, hb⟩ := h.2 hp
    refine ⟨fun hk => absurd (hv.symm.trans hk) nofun, fun _ => ⟨k, ?_⟩⟩
    simp only [rnd_add_one s.rnd (by omega), Nat.add_sub_cancel]
    exact fks_round hl hu.le hc hd hb
  | fksLast hp hr =>
    obtain ⟨k, hc, hd, hb⟩ := h.2 hp
    obtain ⟨-, -, hb'⟩ := fks_round (by omega) hr.le hc hd hb
    exact ⟨fun _ => ⟨k, eq_feistelKS fun j hj => hb' j (by omega)⟩, nofun⟩
  | outOfRange hn => exact absurd hi hn
  | skxRound hp | fxRound hp | sencRound hp | sdecRound hp => exact frkOk_of_kept h rfl rfl (by simp [hp])
  | skxLast | transformLast => exact frkOk_of_kept h rfl rfl nofun

/-- A micro-step of SKX writes the next word; word 43 makes the bank whole (rule R196). -/
theorem MicroStepped.wOk (ht : MicroStepped s t) (hi : s.PhaseOk) (h : s.WOk) : t.WOk := by
  cases ht with
  | skxRound hp hl hu =>
    obtain ⟨-, -, hv⟩ := (phaseOk_skxRun hp).1 hi
    obtain ⟨k, hw⟩ := h.2 hp
    refine ⟨fun hk => absurd (hv.symm.trans hk) nofun, fun _ => ⟨k, ?_⟩⟩
    simp only [rnd_add_one s.rnd (by omega)]
    exact kxStep_agrees hl (by omega) hw
  | skxLast hp hr =>
    obtain ⟨k, hw⟩ := h.2 hp
    refine ⟨fun _ => ⟨k, eq_of_wAt fun j hj => ?_⟩, nofun⟩
    exact kxStep_agrees (by omega) (by omega) hw j (by omega)
  | outOfRange hn => exact absurd hi hn
  | fksRound hp | fxRound hp | sencRound hp | sdecRound hp => exact wOk_of_kept h rfl rfl (by simp [hp])
  | fksLast | transformLast => exact wOk_of_kept h rfl rfl nofun

end

/-- Settles O52: the sequencer's invariant gives the round, the banks' own the entries before it. -/
theorem everyStepKeepsTheBanksWhole : Obligations.EveryStepKeepsTheBanksWhole := by
  rintro s t ⟨hi, hk, hw⟩ ht
  have ⟨_, hp, _⟩ := hi
  refine ⟨everyStepKeepsTheSequencerInvariant s t hi ht, ?_⟩
  cases step_stepped ht with
  | reset => exact resetSatisfiesTheInvariants.2.2
  | host => exact ⟨hk, hw⟩
  | resumed hd => exact absurd hp (not_phaseOk_decode hd)
  | issued _ hs _ ht => exact issue_keeps_banks (s := s.withHost hs) hk hw ht
  | microStep hb hd hs =>
    have hm := microStep_stepped (s := s.withHost hs) hb hd
    exact ⟨hm.frkOk hp hk, hm.wOk hp hw⟩

end Sys2Proof.Machine
end

section
/-! Frames (rules R22, R24 to R31, R37, R257): which registers, banks and results a command, a micro-step and a step leave alone. -/

namespace Sys2Proof.Machine

section
variable {s t : State} {i : Instr}

/-! ### Commands -/

/-- A key command is no transform. -/
theorem not_transforms_of_key (hi : i = .fks ∨ i = .skx) : ¬ Transforms i := by
  rcases hi with rfl | rfl <;> simp [Transforms]

theorem CommandEnds.frame (h : CommandEnds s i t) :
    t.cmd = s.cmd ∧ t.klen = s.klen ∧ t.blen = s.blen ∧ t.key = s.key ∧ t.din = s.din ∧ t.fatal = s.fatal ∧
    t.script = s.script ∧ t.seen = s.seen ∧ t.reading = s.reading ∧ t.busy = false := by
  obtain (_ | _) | _ | _ | _ := h <;> exact ⟨rfl, rfl, rfl, rfl, rfl, rfl, rfl, rfl, rfl, rfl⟩

theorem CommandFails.banks_kept (h : CommandFails s i t) : t.frk = s.frk ∧ t.fkv = s.fkv ∧ t.w = s.w ∧ t.skv = s.skv := by
  cases h <;> exact ⟨rfl, rfl, rfl, rfl⟩

theorem CommandEnds.frk_kept (h : CommandEnds s i t) (hi : i ≠ .fks) : t.frk = s.frk ∧ t.fkv = s.fkv := by
  cases h with
  | fails h => exact ⟨h.banks_kept.1, h.banks_kept.2.1⟩
  | fks h => exact absurd h hi
  | skx | transform => exact ⟨rfl, rfl⟩

theorem CommandEnds.w_kept (h : CommandEnds s i t) (hi : i ≠ .skx) : t.w = s.w ∧ t.skv = s.skv := by
  cases h with
  | fails h => exact h.banks_kept.2.2
  | skx h => exact absurd h hi
  | fks | transform => exact ⟨rfl, rfl⟩

theorem CommandFails.result_kept (h : CommandFails s i t) (hi : i = .fks ∨ i = .skx) : t.doutRaw = s.doutRaw ∧ t.dv = s.dv := by
  cases h with
  | key => exact ⟨rfl, rfl⟩
  | transform h => exact absurd h (not_transforms_of_key hi)

theorem CommandEnds.result_kept (h : CommandEnds s i t) (hi : i = .fks ∨ i = .skx) : t.doutRaw = s.doutRaw ∧ t.dv = s.dv := by
  cases h with
  | fails h => exact h.result_kept hi
  | fks | skx => exact ⟨rfl, rfl⟩
  | transform h => exact absurd h (not_transforms_of_key hi)

/-- No issue micro-step writes `FRK`; FKS only clears its valid bit (rule R150). -/
theorem CommandStarts.frk_kept (h : CommandStarts s i t) : t.frk = s.frk := by
  cases h with
  | fails h => exact h.banks_kept.1
  | fks | skx | fx | senc | sdec => rfl

theorem CommandStarts.w_kept (h : CommandStarts s i t) (hi : i ≠ .skx) : t.w = s.w := by
  cases h with
  | fails h => exact h.banks_kept.2.2.1
  | skx h => exact absurd h hi
  | fks | fx | senc | sdec => rfl

end

/-- Settles O28: each clause holds in every case of `CommandEnds`. -/
theorem commandFrame : Obligations.CommandFrame := by
  intro i s
  obtain ⟨t, ht⟩ := exec_next i s
  have h := exec_ends ht
  obtain ⟨hcmd, hklen, hblen, hkey, hdin, hfatal, hscript, hseen, hreading, hbusy⟩ := h.frame
  exact ⟨t, ht, hcmd, hklen, hblen, hkey, hdin, hfatal, hscript, hseen, hreading, hbusy, h.frk_kept, h.w_kept, h.result_kept⟩

section
variable {s t : State} {i : Instr}

/-! ### The operand registers -/

/-- `CMD`, `KLEN`, `BLEN`, `KEY` and `DIN` are as before. -/
structure OperandsKept (s t : State) : Prop where
  cmd : t.cmd = s.cmd
  klen : t.klen = s.klen
  blen : t.blen = s.blen
  key : t.key = s.key
  din : t.din = s.din

/-- Where the registers are kept, nothing need explain a change. -/
theorem OperandsKept.no_change (h : OperandsKept s t) {p q r u v : Prop} :
    (t.klen ≠ s.klen → p) ∧ (t.blen ≠ s.blen → q) ∧ (t.key ≠ s.key → r) ∧ (t.din ≠ s.din → u) ∧ (t.cmd ≠ s.cmd → v) :=
  ⟨absurd h.klen, absurd h.blen, absurd h.key, absurd h.din, absurd h.cmd⟩

theorem issue_operandsKept (ht : issue s = .next t) : OperandsKept s t := by
  rcases issue_cases ht with ⟨-, rfl⟩ | ⟨-, -, rfl⟩ | ⟨i, -, -, ⟨-, ht⟩ | ⟨-, rfl⟩⟩
  · exact ⟨rfl, rfl, rfl, rfl, rfl⟩
  · exact ⟨rfl, rfl, rfl, rfl, rfl⟩
  · obtain ⟨hcmd, hklen, hblen, hkey, hdin, -⟩ := (exec_ends ht).frame
    exact ⟨hcmd, hklen, hblen, hkey, hdin⟩
  · obtain ⟨hcmd, hklen, hblen, hkey, hdin, -⟩ := start_frame i (s.latch s.cmd)
    exact ⟨hcmd, hklen, hblen, hkey, hdin⟩

theorem engineStep_operandsKept (ht : engineStep s = .next t) : OperandsKept s t := by
  rcases engineStep_cases ht with ⟨-, rfl⟩ | ⟨-, ht⟩ | ⟨-, -, rfl⟩
  · exact ⟨rfl, rfl, rfl, rfl, rfl⟩
  · exact issue_operandsKept ht
  · obtain ⟨hcmd, hklen, hblen, hkey, hdin, -⟩ := microStep_frame s
    exact ⟨hcmd, hklen, hblen, hkey, hdin⟩

end

/-- Settles O29: the engine's step and the issue step keep all five; a host write changes its own register. -/
theorem engineNeverWritesOperands : Obligations.EngineNeverWritesOperands := by
  intro s t ht hr
  rcases step_cases ht with ⟨-, ht⟩ | ⟨a, rest, hs, -, ht⟩
  · exact (engineStep_operandsKept ht).no_change
  · rw [hs] at hr ⊢
    rcases takeEffect_cases ht with ⟨rfl, -⟩ | ⟨rfl, ht⟩ | ⟨x, ha, ht⟩ | ⟨x, rfl, rfl⟩ | ⟨x, rfl, rfl⟩ | ⟨x, rfl, rfl⟩ |
      ⟨x, rfl, rfl⟩ | ⟨p, l, rfl⟩
    · exact absurd rfl hr
    · exact (engineStep_operandsKept ht).no_change
    · obtain ⟨-, hklen, hblen, hkey, hdin⟩ := issue_operandsKept ht
      refine ⟨absurd hklen, absurd hblen, absurd hkey, absurd hdin, fun _ => ?_⟩
      rcases ha with rfl | ⟨i, rfl, -⟩
      · exact .inl ⟨x, rfl⟩
      · exact .inr ⟨i, rfl⟩
    · exact ⟨fun _ => ⟨x, rfl⟩, absurd rfl, absurd rfl, absurd rfl, absurd rfl⟩
    · exact ⟨absurd rfl, fun _ => ⟨x, rfl⟩, absurd rfl, absurd rfl, absurd rfl⟩
    · exact ⟨absurd rfl, absurd rfl, fun _ => ⟨x, rfl⟩, absurd rfl, absurd rfl⟩
    · exact ⟨absurd rfl, absurd rfl, absurd rfl, fun _ => ⟨x, rfl⟩, absurd rfl⟩
    · exact OperandsKept.no_change ⟨rfl, rfl, rfl, rfl, rfl⟩

section
variable {s t : State} {i : Instr}

/-! ### The banks -/

/-- A word that decodes to a command is the command's word (rules R90, R92). -/
theorem encode_of_decode {x : BitVec 8} (h : decode x = .ok i) : encode i = x := by
  have all : ∀ x : BitVec 8, ∀ i ∈ (decode x).toOption, encode i = x := by decide
  exact all x i (by rw [h]; rfl)

/-- The word of a command decodes to it (rules R90, R92). -/
theorem decode_encode (i : Instr) : decode (encode i) = .ok i := by cases i <;> decide

/-- The entry that writes a word to `CMD` is a `WR CMD` with the word or the `CMD` entry of its command (rule R97). -/
theorem nextWord_cases {x : BitVec 8} (h : s.nextWord = some x) :
    ∃ a rest, s.script = a :: rest ∧ (a = .wr 0 (.w8 x) ∨ ∃ i, a = .cmd i ∧ encode i = x) := by
  unfold State.nextWord at h
  split at h
  · rename_i y rest hs
    exact ⟨_, rest, hs, .inl (by injection h with h; rw [h])⟩
  · rename_i i rest hs
    exact ⟨_, rest, hs, .inr ⟨i, rfl, by injection h⟩⟩
  · cases h

/-- An issue that changes `FRK` is of FKS (rule R30). -/
theorem decode_of_issue_frk_ne (ht : issue s = .next t) (h : t.frk ≠ s.frk) : decode s.cmd = .ok .fks := by
  rcases issue_cases ht with ⟨-, rfl⟩ | ⟨-, -, rfl⟩ | ⟨i, -, hd, ⟨-, ht⟩ | ⟨-, rfl⟩⟩
  · exact absurd rfl h
  · exact absurd rfl h
  · by_cases hi : i = .fks
    · rw [hd, hi]
    · exact absurd ((exec_ends ht).frk_kept hi).1 h
  · exact absurd (start_starts i _).frk_kept h

/-- An issue that changes `W` is of SKX (rule R31). -/
theorem decode_of_issue_w_ne (ht : issue s = .next t) (h : t.w ≠ s.w) : decode s.cmd = .ok .skx := by
  rcases issue_cases ht with ⟨-, rfl⟩ | ⟨-, -, rfl⟩ | ⟨i, -, hd, ht⟩
  · exact absurd rfl h
  · exact absurd rfl h
  · by_cases hi : i = .skx
    · rw [hd, hi]
    · rcases ht with ⟨-, ht⟩ | ⟨-, rfl⟩
      · exact absurd ((exec_ends ht).w_kept hi).1 h
      · exact absurd ((start_starts i _).w_kept hi) h

theorem MicroStepped.frk_kept (h : MicroStepped s t) (hp : s.phase ≠ .fksRun) : t.frk = s.frk := by
  cases h with
  | fksRound h | fksLast h => exact absurd h hp
  | outOfRange | skxRound | skxLast | fxRound | sencRound | sdecRound | transformLast => rfl

theorem MicroStepped.w_kept (h : MicroStepped s t) (hp : s.phase ≠ .skxRun) : t.w = s.w := by
  cases h with
  | skxRound h | skxLast h => exact absurd h hp
  | outOfRange | fksRound | fksLast | fxRound | sencRound | sdecRound | transformLast => rfl

/-- The host's next entry issues the command its word decodes to. -/
theorem head_of_nextWord {x : BitVec 8} (hw : s.nextWord = some x) (hd : decode x = .ok i) :
    s.script.head? = some (.cmd i) ∨ s.script.head? = some (.wr 0 (.w8 (encode i))) := by
  obtain ⟨a, rest, hs, rfl | ⟨j, rfl, rfl⟩⟩ := nextWord_cases hw <;> rw [hs]
  · rw [encode_of_decode hd]; exact .inr rfl
  · obtain rfl : j = i := Except.ok.inj ((decode_encode j).symm.trans hd)
    exact .inl rfl

end

/-- Settles O30: a bank changes in an issue of its own key command, which the host's entry names, or in that command's micro-steps. -/
theorem banksChangeOnlyByTheirKeyCommand : Obligations.BanksChangeOnlyByTheirKeyCommand := by
  intro s t hd ht hr
  cases step_stepped ht with
  | reset hs => exact absurd hs hr
  | host => exact ⟨absurd rfl, absurd rfl⟩
  | resumed h => exact absurd h hd
  | issued _ hs hw ht =>
    exact ⟨fun h => .inr (head_of_nextWord hw (decode_of_issue_frk_ne ht h)),
      fun h => .inr (head_of_nextWord hw (decode_of_issue_w_ne ht h))⟩
  | microStep hb hd hs =>
    have hm := microStep_stepped (s := s.withHost hs) hb hd
    exact ⟨fun h => .inl (by_contra fun hp => h (hm.frk_kept hp)), fun h => .inl (by_contra fun hp => h (hm.w_kept hp))⟩

end Sys2Proof.Machine
end

section
/-! Results and errors (rules R24, R29, R229, R257): when `DOUT.raw`, `DV` and `ERR` change, and what a command that ends leaves in
`ERR`. -/

namespace Sys2Proof.Machine

/-- `DOUT.raw` changes only where a transform succeeds, `DV` only in a transform, `ERR` only where the engine ends up idle or
stopped; `p` says that what led from `s` to `t` was a transform. -/
structure ResultRule (p : Prop) (s t : State) : Prop where
  dout : t.doutRaw ≠ s.doutRaw → p ∧ t.dv = true ∧ t.err = 0 ∧ t.busy = false
  dv : t.dv ≠ s.dv → p
  err : t.err ≠ s.err → t.busy = false

section
variable {s t : State} {i : Instr} {p q : Prop}

theorem ResultRule.mono (h : ResultRule p s t) (hpq : p → q) : ResultRule q s t :=
  ⟨fun hd => ⟨hpq (h.dout hd).1, (h.dout hd).2⟩, fun hd => hpq (h.dv hd), h.err⟩

/-- `DOUT.raw` and `DV` are kept, and the command ends. -/
theorem resultRule_of_ends (ho : t.doutRaw = s.doutRaw) (hv : t.dv = s.dv) (hb : t.busy = false) : ResultRule p s t :=
  ⟨absurd ho, absurd hv, fun _ => hb⟩

/-- All three are kept. -/
theorem resultRule_of_kept (ho : t.doutRaw = s.doutRaw) (hv : t.dv = s.dv) (he : t.err = s.err) : ResultRule p s t :=
  ⟨absurd ho, absurd hv, absurd he⟩

/-- A transform that does not touch `DOUT.raw` and `ERR` goes on. -/
theorem resultRule_of_goesOn (hp : p) (ho : t.doutRaw = s.doutRaw) (he : t.err = s.err) : ResultRule p s t :=
  ⟨absurd ho, fun _ => hp, absurd he⟩

/-- A transform writes its result. -/
theorem resultRule_installDout (hp : p) (r : Block128) : ResultRule p s (s.installDout r).succeed :=
  ⟨fun _ => ⟨hp, rfl, rfl, rfl⟩, fun _ => hp, fun _ => rfl⟩

theorem CommandFails.resultRule (h : CommandFails s i t) : ResultRule (Transforms i) s t := by
  cases h with
  | key => exact resultRule_of_ends rfl rfl rfl
  | transform hi => exact ⟨absurd rfl, fun _ => hi, fun _ => rfl⟩

theorem CommandEnds.resultRule (h : CommandEnds s i t) : ResultRule (Transforms i) s t := by
  cases h with
  | fails h => exact h.resultRule
  | fks | skx => exact resultRule_of_ends rfl rfl rfl
  | transform hi r => exact resultRule_installDout hi r

theorem CommandStarts.resultRule (h : CommandStarts s i t) : ResultRule (Transforms i) s t := by
  cases h with
  | fails h => exact h.resultRule
  | fks | skx => exact resultRule_of_kept rfl rfl rfl
  | fx hi | senc hi | sdec hi => exact resultRule_of_goesOn hi rfl rfl

theorem issue_resultRule (ht : issue s = .next t) : ResultRule (∃ i, decode s.cmd = .ok i ∧ Transforms i) s t := by
  rcases issue_cases ht with ⟨-, rfl⟩ | ⟨-, -, rfl⟩ | ⟨i, -, hd, ht⟩
  · exact resultRule_of_kept rfl rfl rfl
  · exact resultRule_of_ends rfl rfl rfl
  · have latched : ResultRule (Transforms i) (s.latch s.cmd) t := by
      rcases ht with ⟨-, ht⟩ | ⟨-, rfl⟩
      · exact (exec_ends ht).resultRule
      · exact (start_starts i _).resultRule
    obtain ⟨ho, hv, he⟩ := latched
    exact ResultRule.mono ⟨ho, hv, he⟩ fun hi => ⟨i, hd, hi⟩

theorem MicroStepped.resultRule (h : MicroStepped s t) : ResultRule s.runsTransform s t := by
  cases h with
  | outOfRange | fksLast | skxLast => exact resultRule_of_ends rfl rfl rfl
  | fksRound | skxRound | fxRound | sencRound | sdecRound => exact resultRule_of_kept rfl rfl rfl
  | transformLast hp r => exact resultRule_installDout hp r

/-- A running command that ends leaves no error, or, where `RND` is out of range, the fatal one (rules R24, R231). -/
theorem MicroStepped.err (h : MicroStepped s t) (hs : s.busy = true) (ht : t.busy = false) : t.err = 0 ∨ t.err = 4 := by
  cases h with
  | outOfRange => exact .inr rfl
  | fksLast | skxLast | transformLast => exact .inl rfl
  | fksRound | skxRound | fxRound | sencRound | sdecRound => exact absurd (hs.symm.trans ht) nofun

/-- A command that does not run on after its issue micro-step has failed. -/
theorem CommandStarts.errOk (h : CommandStarts s i t) (hf : s.fatal = false) (ht : t.busy = false) : t.ErrOk := by
  cases h with
  | fails h => exact (h.inv hf).2.2
  | fks | skx | fx | senc | sdec => cases ht

/-- A command that ends in its issue step leaves one of the codes 0, 2, 3, 5, 6 (rules R24, R229). -/
theorem issue_errOk (hf : s.fatal = false) (ht : issue s = .next t) (hb : t.busy = false) : t.ErrOk := by
  rcases issue_cases ht with ⟨hf', -⟩ | ⟨-, -, rfl⟩ | ⟨i, -, -, ⟨-, ht⟩ | ⟨-, rfl⟩⟩
  · exact absurd (hf.symm.trans hf') nofun
  · exact .inr (.inr (.inr (.inl rfl)))
  · exact ((exec_ends ht).inv hf).2.2
  · exact (start_starts i _).errOk hf hb

/-- Where the engine is not busy, the host's next entry takes effect (rule R72). -/
theorem step_of_not_busy {a : HostAction} {rest : List HostAction} (hb : s.busy = false) (hs : s.script = a :: rest) :
    step s = takeEffect a rest s := by
  simp [step, hostStep, hs, perform, hb]

/-- Where the engine is not busy, a write of a word to `CMD` is an issue step on that word (rules R22, R97). -/
theorem step_of_nextWord {x : BitVec 8} (hb : s.busy = false) (hw : s.nextWord = some x) :
    ∃ h : HostSide, step s = issue (s.withHost h) := by
  obtain ⟨a, rest, hs, ha⟩ := nextWord_cases hw
  refine ⟨{ s.host with cmd := x, script := rest }, (step_of_not_busy hb hs).trans ?_⟩
  obtain rfl | ⟨i, rfl, rfl⟩ := ha <;> rfl

end

/-- Settles O60: `ResultRule` for the issue and for the micro-step, and the codes each can end with. -/
theorem resultAndErrorChangeOnlyByCommands : Obligations.ResultAndErrorChangeOnlyByCommands := by
  intro s t hd ht hr
  have errOk (hb : s.busy = false) (hf : s.fatal = false) (hw : s.nextWord.isSome = true) (htb : t.busy = false) : t.ErrOk := by
    obtain ⟨x, hx⟩ := Option.isSome_iff_exists.1 hw
    obtain ⟨h, hstep⟩ := step_of_nextWord hb hx
    exact issue_errOk (s := s.withHost h) hf (hstep.symm.trans ht) htb
  cases step_stepped ht with
  | reset hs => exact absurd hs hr
  | host => exact ⟨absurd rfl, absurd rfl, absurd rfl, fun hb htb => absurd (hb.symm.trans htb) nofun, errOk⟩
  | resumed h => exact absurd h hd
  | issued hb h hw ht =>
    obtain ⟨ho, hv, he⟩ := (issue_resultRule ht).mono (q := s.transforms) fun ⟨i, hi, htr⟩ =>
      .inr (.inr (.inr ⟨h.cmd, i, hw, hi, htr⟩))
    exact ⟨ho, hv, fun hne => ⟨he hne, .inr (by rw [hw]; rfl)⟩, fun hb' => absurd (hb.symm.trans hb') nofun, errOk⟩
  | microStep hb hd h =>
    have hm := microStep_stepped (s := s.withHost h) hb hd
    obtain ⟨ho, hv, he⟩ := hm.resultRule.mono (q := s.transforms)
      (Or.imp_right (Or.imp_right .inl))
    exact ⟨ho, hv, fun hne => ⟨he hne, .inl hb⟩, fun hb htb => hm.err hb htb, errOk⟩

end Sys2Proof.Machine
end

section
/-! The register interface and the reset values (rules R21, R23, R29 to R31, R38, R61). -/

namespace Sys2Proof.Machine

/-- What the indices above the eight named registers read as: the two banks behind their gates, and 0 (rule R21). -/
theorem regRead_of_eight_le (s : State) {n : Nat} (h : 8 ≤ n) :
    regRead s n =
      if n < 16 then .zero else if n < 32 then .w48 (s.frkRead (n - 15))
      else if n < 76 then .w32 (s.wRead (n - 32)) else .zero := by
  unfold regRead
  rw [if_neg, if_neg, if_neg, if_neg, if_neg, if_neg, if_neg, if_neg] <;> omega

/-- A reserved index reads as 0 (rule R21). -/
theorem regRead_reserved (s : State) {n : Nat} (h : 8 ≤ n ∧ n ≤ 15 ∨ 76 ≤ n) : regRead s n = .zero := by
  rw [regRead_of_eight_le s (by omega)]
  rcases h with h | h
  · rw [if_pos (by omega)]
  · rw [if_neg (by omega), if_neg (by omega), if_neg (by omega)]

/-- Indices 16 to 31 are the Feistel bank behind its gate (rules R21, R30). -/
theorem regRead_frk (s : State) (i : Fin 16) : regRead s (16 + i.val) = .w48 (if s.fkv then s.frk[i] else 0) := by
  rw [regRead_of_eight_le s (by omega), if_neg (by omega), if_pos (by omega), State.frkRead,
    show 16 + i.val - 15 - 1 = i.val by omega]
  simp

/-- Indices 32 to 75 are the SPN bank behind its gate (rules R21, R31). -/
theorem regRead_w (s : State) (i : Fin 44) : regRead s (32 + i.val) = .w32 (if s.skv then s.w[i] else 0) := by
  rw [regRead_of_eight_le s (by omega), if_neg (by omega), if_neg (by omega), if_pos (by omega), State.wRead,
    Nat.add_sub_cancel_left]
  simp

/-- Settles O5: the named registers by computation, the others from the three ranges above. -/
theorem registerReadMap : Obligations.RegisterReadMap := fun s =>
  ⟨rfl, rfl, rfl, rfl, rfl, rfl, rfl, rfl, fun _ hl hu => by rw [regRead_reserved s (.inl ⟨hl, hu⟩)]; rfl, regRead_frk s,
    regRead_w s, fun _ hl => by rw [regRead_reserved s (.inr hl)]; rfl⟩

/-- Every index reads as 0 after reset: the registers are 0 and the gates are closed (rules R30, R31, R38). -/
theorem regRead_reset (n : Nat) : (regRead State.reset n).toNat = 0 := by
  by_cases h : n < 8
  · interval_cases n <;> rfl
  · rw [regRead_of_eight_le _ (by omega)]
    split_ifs <;> rfl

/-- Settles O3: the stored values by computation, the reads from `regRead_reset`. -/
theorem resetStateIsAllZero : Obligations.ResetStateIsAllZero :=
  ⟨rfl, rfl, rfl, rfl, rfl, rfl, rfl, rfl, rfl, rfl, rfl, rfl, fun i => Vector.getElem_replicate i.isLt,
    fun i => Vector.getElem_replicate i.isLt, rfl, rfl, regRead_reset⟩

/-- Bit `n` of `STATUS` (rule R23). -/
theorem status_getLsbD (s : State) (n : Fin 8) :
    s.status.getLsbD n = [s.busy, s.dv, s.fkv, s.skv, s.errf, s.fatal, false, false][n] := by
  have bits : ∀ (b v d k e f : Bool) (n : Fin 8),
      (BitVec.ofBoolListBE [false, false, f, e, k, d, v, b]).getLsbD n = [b, v, d, k, e, f, false, false][n] := by decide
  exact bits s.busy s.dv s.fkv s.skv s.errf s.fatal n

/-- Settles O6: `BUSY` and `ERRF` are views of `PHASE` and `ERR`. -/
theorem statusBits : Obligations.StatusBits := by
  intro s
  refine ⟨?_, status_getLsbD s 1, status_getLsbD s 2, status_getLsbD s 3, ?_, status_getLsbD s 5, status_getLsbD s 6,
    status_getLsbD s 7⟩
  · rw [← busy_eq_true]; exact Bool.eq_iff_iff.1 (status_getLsbD s 0)
  · rw [← bne_iff_ne]; exact Bool.eq_iff_iff.1 (status_getLsbD s 4)

/-- A whole-register write to a read-only or reserved index is no error and changes nothing (rules R21, R67). -/
theorem regWrite_ignored (s : State) {n : Nat} {v : RegVal} (hn : n = 1 ∨ n = 2 ∨ n = 7 ∨ 8 ≤ n)
    (hw : ∀ k, regWidth n = some k → v.width = k) : regWrite s n v = .next s := by
  have hwf : writeWellFormed n v = true := by
    unfold writeWellFormed
    split
    · exact beq_iff_eq.2 (hw _ ‹_›)
    · rfl
  unfold regWrite
  rw [if_pos hwf]
  split
  case h_6 => rfl
  all_goals omega

/-- Settles O9: the write takes effect, and its effect is none. -/
theorem readOnlyAndReservedWritesIgnored : Obligations.ReadOnlyAndReservedWritesIgnored := fun s _ _ rest hb hs hn hw =>
  (step_of_not_busy hb hs).trans (regWrite_ignored (s.continueWith rest) hn hw)

end Sys2Proof.Machine
end

section
/-! Noninterference (rules R36, R66, R147, R255): the two command shapes on two states that agree on what they read. -/

namespace Sys2Proof.Machine

section
variable {s s' : State} {len : BitVec 16} {go : State → State} {R : State → State → Prop}

/-- Two states with the same `KLEN` take the same path through a key command. -/
theorem keyCommand_related (hk : s.klen = s'.klen) (pass : R (go s) (go s'))
    (fail : R (s.fail .invalidKeyLength) (s'.fail .invalidKeyLength)) : R (keyCommand len go s) (keyCommand len go s') := by
  by_cases h : s.klen = len
  · rwa [keyCommand_pass h, keyCommand_pass (hk ▸ h)]
  · rwa [keyCommand_badLength h, keyCommand_badLength (hk ▸ h)]

/-- Two states with the same `BLEN` and the same valid bit take the same path through a transform. -/
theorem transformCommand_related {valid : Bool} (hb : s.blen = s'.blen) (pass : R (go s.clearDv) (go s'.clearDv))
    (fail : ∀ e, R (s.clearDv.fail e) (s'.clearDv.fail e)) :
    R (transformCommand len valid go s) (transformCommand len valid go s') := by
  by_cases h : s.blen = len
  · have h' : s'.blen = len := hb ▸ h
    cases hv : valid
    · rw [transformCommand_noSchedule h rfl, transformCommand_noSchedule h' rfl]; exact fail _
    · rwa [transformCommand_pass h rfl, transformCommand_pass h' rfl]
  · rw [transformCommand_badLength h, transformCommand_badLength (hb ▸ h)]; exact fail _

end

/-- Two runs of FKS agree: on `ERR` and, where they pass, on the bank and its valid bit. -/
def SameFrk (t t' : State) : Prop := t.err = t'.err ∧ (t.err = 0 → t.frk = t'.frk ∧ t.fkv = t'.fkv)

/-- Two runs of SKX agree: on `ERR` and, where they pass, on the bank and its valid bit. -/
def SameW (t t' : State) : Prop := t.err = t'.err ∧ (t.err = 0 → t.w = t'.w ∧ t.skv = t'.skv)

theorem sameFrk_installFrk (s s' : State) {b b' : FrkBank} (h : b = b') :
    SameFrk (s.installFrk b).succeed (s'.installFrk b').succeed := ⟨rfl, fun _ => ⟨h, rfl⟩⟩

theorem sameW_installW (s s' : State) {b b' : WBank} (h : b = b') :
    SameW (s.installW b).succeed (s'.installW b').succeed := ⟨rfl, fun _ => ⟨h, rfl⟩⟩

/-- Settles O31: the two runs pass or fail together, and where they pass the bank is a function of the key bits read. -/
theorem keyCommandsDependOnKeyAlone : Obligations.KeyCommandsDependOnKeyAlone := by
  intro s s' t t' hk
  constructor
  · rintro hkey ⟨⟩ ⟨⟩
    exact keyCommand_related (R := SameFrk) hk (sameFrk_installFrk s s' (congrArg feistelKS hkey))
      ⟨rfl, fun h => absurd h (code_ne_zero .invalidKeyLength)⟩
  · rintro hkey ⟨⟩ ⟨⟩
    exact keyCommand_related (R := SameW) hk (sameW_installW s s' (congrArg spnKX hkey))
      ⟨rfl, fun h => absurd h (code_ne_zero .invalidKeyLength)⟩

/-- The host sees the same result: `ERR`, `DV` and `DOUT` as read. -/
def SameResult (t t' : State) : Prop := t.err = t'.err ∧ t.dv = t'.dv ∧ regRead t 7 = regRead t' 7

/-- A transform whose result is the same function of what two states agree on leaves the same result. -/
theorem transformCommand_sameResult {s s' : State} {len : BitVec 16} {valid valid' : Bool} (r : State → Block128)
    (hb : s.blen = s'.blen) (hv : valid = valid') (hr : r s.clearDv = r s'.clearDv) :
    SameResult (transformCommand len valid (fun s => (s.installDout (r s)).succeed) s)
      (transformCommand len valid' (fun s => (s.installDout (r s)).succeed) s') := by
  subst hv
  exact transformCommand_related hb ⟨rfl, rfl, congrArg RegVal.w128 hr⟩ fun _ => ⟨rfl, rfl, rfl⟩

/-- Settles O32: each transform's result is a function of the block bits and the bank that the two states share. -/
theorem transformsDependOnBlockAndBankAlone : Obligations.TransformsDependOnBlockAndBankAlone := by
  rintro s s' t t' i hb ht ht' (⟨rfl | rfl, hd, hk, hv⟩ | ⟨rfl | rfl, hd, hk, hv⟩) <;> cases ht <;> cases ht'
  · exact transformCommand_sameResult _ hb hv (congrArg feistelResult (congrArg₂ feistelFX hd hk))
  · exact transformCommand_sameResult _ hb hv
      (congrArg feistelResult (congrArg₂ feistelFX hd (congrArg frkReversed hk)))
  · exact transformCommand_sameResult _ hb hv (congrArg₂ spnSE hd hk)
  · exact transformCommand_sameResult _ hb hv (congrArg₂ spnSD hd hk)

end Sys2Proof.Machine
end

section
/-! Reads and writes of the host that take effect (rules R61, R67, R68), and the ranges of the ROM tables (rules R62, R63). -/

namespace Sys2Proof.Machine

/-- A host access that no hold rule stops takes effect: the engine is not busy, or the access is never held (rule R72). -/
theorem step_of_not_held {s : State} {a : HostAction} {rest : List HostAction} (h : s.busy = false ∨ held a = false)
    (hs : s.script = a :: rest) : step s = takeEffect a rest s := by
  have hh : (held a && s.busy) = false := Bool.and_eq_false_iff.2 h.symm
  simp [step, hostStep, hs, perform, hh]

/-- A write of another width than the register's is refused (rule R67). -/
theorem regWrite_partial (s : State) {n k : Nat} {v : RegVal} (hn : regWidth n = some k) (hv : v.width ≠ k) :
    regWrite s n v = .refused (.partialAccess n) := by
  have hwf : writeWellFormed n v = false := by
    unfold writeWellFormed; rw [hn]; exact beq_eq_false_iff_ne.2 hv
  unfold regWrite
  rw [if_neg (by simp [hwf])]

/-- Settles O7: the read takes effect, a `STATUS` read whether or not the engine is busy. -/
theorem readsChangeNothing : Obligations.ReadsChangeNothing := fun _ n _ hs h =>
  step_of_not_held (a := .rd n) (h.imp_right fun hn => by rw [hn]; rfl) hs

/-- Settles O8: the write takes effect, and each of the four indices stores its own register. -/
theorem operandWritesStore : Obligations.OperandWritesStore := fun _ _ hb =>
  ⟨fun _ hs => step_of_not_busy hb hs, fun _ hs => step_of_not_busy hb hs, fun _ hs => step_of_not_busy hb hs,
    fun _ hs => step_of_not_busy hb hs⟩

/-- Settles O10: the write would take effect, and there its width is refused. -/
theorem partialWritesRefused : Obligations.PartialWritesRefused := fun s _ _ _ rest hb hs hn hv =>
  (step_of_not_busy hb hs).trans (regWrite_partial (s.continueWith rest) hn hv)

/-- `TabRead` answers exactly from a table's first index on, for as many indices as it has entries (rule R63). -/
theorem tabRead_isSome (T : Rom) (i : Nat) : (tabRead T i).isSome ↔ T.base ≤ i ∧ i < T.base + T.entries.length := by
  unfold tabRead
  split
  · rw [Option.isSome_iff_ne_none, Ne, List.getElem?_eq_none_iff]; omega
  · simp only [Option.isSome_none, Bool.false_eq_true, false_iff]; omega

/-- What `TabRead` answers is an entry of the table. -/
theorem mem_entries_of_tabRead {T : Rom} {i v : Nat} (h : tabRead T i = some v) : v ∈ T.entries := by
  unfold tabRead at h
  split at h
  · exact List.mem_of_getElem? h
  · cases h

/-- The ranges of a table: its indices run from `first` to `last`, and each entry lies between `low` and `high`. -/
structure Rom.HasRange (T : Rom) (first last low high : Nat) : Prop where
  base : T.base = first
  length : first + T.entries.length = last + 1
  entries : ∀ v ∈ T.entries, low ≤ v ∧ v ≤ high

/-- A table of words has its entries below the power of two of their width, whatever they are (rule R62). -/
theorem mem_map_toNat_le {w : Nat} (l : List (BitVec w)) : ∀ v ∈ l.map BitVec.toNat, 0 ≤ v ∧ v ≤ 2 ^ w - 1 := by
  intro v hv
  obtain ⟨x, -, rfl⟩ := List.mem_map.1 hv
  exact ⟨Nat.zero_le _, Nat.le_sub_one_of_lt x.isLt⟩

/-- An S-box has four rows of sixteen (rule R62). -/
theorem length_entries_s (j : Fin 8) : (Rom.s j).entries.length = 64 := by revert j; decide

theorem length_entries_sbox : Rom.sbox.entries.length = 256 := by
  rw [Rom.entries, List.length_map, List.length_flatten]; rfl

theorem length_entries_invsbox : Rom.invsbox.entries.length = 256 := by
  rw [Rom.entries, List.length_map, List.length_flatten]; rfl

/-- The S-boxes hold words of 4 bits (rule R62). -/
theorem hasRange_s (j : Fin 8) : (Rom.s j).HasRange 0 63 0 15 :=
  ⟨rfl, by rw [length_entries_s], mem_map_toNat_le _⟩

/-- What a table's ranges say of `TabRead`. -/
theorem Rom.HasRange.tabRead {T : Rom} {first last low high : Nat} (h : T.HasRange first last low high) :
    (∀ i, (tabRead T i).isSome ↔ first ≤ i ∧ i ≤ last) ∧ ∀ i v, tabRead T i = some v → low ≤ v ∧ v ≤ high := by
  obtain ⟨rfl, hlen, hmem⟩ := h
  refine ⟨fun i => ?_, fun i v hv => hmem v (mem_entries_of_tabRead hv)⟩
  rw [tabRead_isSome]
  omega

/-- Settles O43: the ranges follow from each table's first index, its length and its entries, which are compared for the positions
and shift counts and bounded by their width for the others. -/
theorem tableReadsHaveTheirRange : Obligations.TableReadsHaveTheirRange := by
  refine ⟨tabRead_isSome, ⟨rfl, rfl, rfl, rfl, rfl, rfl, rfl, length_entries_s, length_entries_sbox, length_entries_invsbox, rfl, rfl,
    rfl⟩, fun T first last low high hT => Rom.HasRange.tabRead ?_⟩
  simp only [List.mem_cons, Prod.mk.injEq, List.not_mem_nil, or_false] at hT
  obtain h | h | h | h | h | h | h | h | h | h | h | h | h | h | h | h | h | h | h | h := hT <;>
    obtain ⟨rfl, rfl, rfl, rfl, rfl⟩ := h
  exacts [⟨rfl, rfl, by decide⟩, ⟨rfl, rfl, by decide⟩, ⟨rfl, rfl, by decide⟩, ⟨rfl, rfl, by decide⟩, ⟨rfl, rfl, by decide⟩,
    ⟨rfl, rfl, by decide⟩, ⟨rfl, rfl, by decide⟩, hasRange_s 0, hasRange_s 1, hasRange_s 2, hasRange_s 3, hasRange_s 4, hasRange_s 5,
    hasRange_s 6, hasRange_s 7, ⟨rfl, by rw [length_entries_sbox], mem_map_toNat_le _⟩,
    ⟨rfl, by rw [length_entries_invsbox], mem_map_toNat_le _⟩, ⟨rfl, rfl, mem_map_toNat_le _⟩, ⟨rfl, rfl, mem_map_toNat_le _⟩,
    ⟨rfl, rfl, mem_map_toNat_le _⟩]

end Sys2Proof.Machine
end

section
/-! Several instances (rules R5, R75, R236): an interleaving seen from one of them. -/

namespace Sys2Proof.Machine

/-- Engine `k` moves as often as the order names it, whatever the others do (rule R75). -/
theorem System.engines_run (y : System) (order : List Nat) (k : Nat) :
    (y.run order).engines[k]? = y.engines[k]?.map (runAlone (order.count k)) := by
  induction order generalizing y with
  | nil => show y.engines[k]? = y.engines[k]?.map (runAlone 0); cases y.engines[k]? <;> rfl
  | cons j order ih =>
    show ((y.stepAt j).run order).engines[k]? = _
    rw [ih, System.engines_stepAt, List.getElem?_modify, List.count_cons]
    by_cases hj : j = k
    · subst hj
      rw [beq_self_eq_true, if_pos rfl]
      cases y.engines[j]? <;> simp [runAlone]
    · simp [hj]

theorem System.length_engines_run (y : System) (order : List Nat) : (y.run order).engines.length = y.engines.length := by
  induction order generalizing y with
  | nil => rfl
  | cons j order ih => exact (ih (y.stepAt j)).trans (by rw [System.engines_stepAt, List.length_modify])

/-- Settles O59: by induction on the order, each entry of which moves a single engine. -/
theorem instancesDoNotInterfere : Obligations.InstancesDoNotInterfere := by
  refine ⟨fun y order k s hs => ?_, fun y order => ⟨Nat.succ_pos _, y.length_engines_run order⟩, fun n => ⟨?_, ?_⟩, rfl⟩
  · rw [y.engines_run, hs]; rfl
  · have := n.pos
    simp only [System.engines, System.reset, List.length_cons, List.length_replicate]
    omega
  · intro s hs
    obtain rfl | hs := List.mem_cons.1 hs
    · rfl
    · exact List.eq_of_mem_replicate hs

end Sys2Proof.Machine
end

section
/-! The hold rule and bounded progress (rules R20, R72, R261): the steps of a busy engine, and how many a command still has. -/

namespace Sys2Proof.Machine

section
variable {s t : State}

/-- While the engine is busy, a held access waits and the step is the engine's own (rule R72). -/
theorem step_of_held {a : HostAction} {rest : List HostAction} (hb : s.busy = true) (hs : s.script = a :: rest)
    (ha : held a = true) : step s = engineStep s := by
  simp [step, hostStep, hs, perform, ha, hb]

/-- The issue step leaves the host's program and record alone. -/
theorem issue_hostKept (ht : issue s = .next t) : t.script = s.script ∧ t.seen = s.seen := by
  rcases issue_cases ht with ⟨-, rfl⟩ | ⟨-, -, rfl⟩ | ⟨i, -, -, ⟨-, ht⟩ | ⟨-, rfl⟩⟩
  · exact ⟨rfl, rfl⟩
  · exact ⟨rfl, rfl⟩
  · obtain ⟨-, -, -, -, -, -, hscript, hseen, -⟩ := (exec_ends ht).frame
    exact ⟨hscript, hseen⟩
  · obtain ⟨-, -, -, -, -, -, hscript, hseen, -⟩ := start_frame i (s.latch s.cmd)
    exact ⟨hscript, hseen⟩

/-- The engine's own step leaves the host's program and record alone. -/
theorem engineStep_hostKept (ht : engineStep s = .next t) : t.script = s.script ∧ t.seen = s.seen := by
  rcases engineStep_cases ht with ⟨-, rfl⟩ | ⟨-, ht⟩ | ⟨-, -, rfl⟩
  · exact ⟨rfl, rfl⟩
  · exact issue_hostKept ht
  · obtain ⟨-, -, -, -, -, -, hscript, hseen⟩ := microStep_frame s
    exact ⟨hscript, hseen⟩

end

/-- Settles O11: each of the five accesses is held, and the engine's own step answers a next state. -/
theorem holdRule : Obligations.HoldRule := by
  intro s a rest hb hs ha
  have hheld : held a = true := by
    rcases ha with ⟨n, hn, rfl⟩ | ⟨n, v, rfl⟩ | ⟨i, rfl⟩ | rfl | rfl
    · exact bne_iff_ne.2 hn
    all_goals rfl
  have hstep := step_of_held hb hs hheld
  obtain ⟨t, ht⟩ := engineStep_next s
  exact ⟨hstep, t, hstep.trans ht, engineStep_hostKept ht⟩

/-- How many micro-steps a command in a running phase still has, by `RND` (rules R150, R151, R196 to R198). -/
def stepsLeftAt : Phase → Nat → Nat
  | .idle, _ => 0
  | .decode, _ => 0
  | .fksRun, n => 17 - n
  | .fxRun, n => 17 - n
  | .skxRun, n => 44 - n
  | .sencRun, n => 11 - n
  | .sdecRun, n => n + 1
  | .fault, _ => 0

/-- How many micro-steps the running command still has. -/
def State.stepsLeft (s : State) : Nat := stepsLeftAt s.phase s.rnd.toNat

section
variable {s t : State}

/-- A running command has a micro-step left, and at most the forty of SKX. -/
theorem stepsLeft_mem (h : s.PhaseOk) (hb : s.busy = true) : 1 ≤ s.stepsLeft ∧ s.stepsLeft ≤ 40 := by
  obtain ⟨hi, hf⟩ := busy_eq_true.1 hb
  unfold State.stepsLeft
  cases hp : s.phase <;> dsimp only [stepsLeftAt]
  case idle => exact absurd hp hi
  case decode => exact absurd h (not_phaseOk_decode hp)
  case fault => exact absurd hp hf
  case fksRun => obtain ⟨hl, hu, -⟩ := (phaseOk_fksRun hp).1 h; omega
  case fxRun => obtain ⟨hl, hu, -⟩ := (phaseOk_fxRun hp).1 h; omega
  case skxRun => obtain ⟨hl, hu, -⟩ := (phaseOk_skxRun hp).1 h; omega
  case sencRun => obtain ⟨hl, hu, -⟩ := (phaseOk_sencRun hp).1 h; omega
  case sdecRun => obtain ⟨hu, -⟩ := (phaseOk_sdecRun hp).1 h; omega

/-- A micro-step with `RND` in range ends the command or leaves fewer micro-steps: `RND` moves towards its last value. -/
theorem MicroStepped.progress (ht : MicroStepped s t) (h : s.PhaseOk) :
    (t.phase = .idle ∧ t.err = 0) ∨ (t.busy = s.busy ∧ t.stepsLeft < s.stepsLeft) := by
  cases ht with
  | outOfRange hr => exact absurd h hr
  | fksLast | skxLast | transformLast => exact .inl ⟨rfl, rfl⟩
  | fksRound hp _ hu | skxRound hp _ hu | fxRound hp hu | sencRound hp hu =>
    refine .inr ⟨rfl, ?_⟩
    show stepsLeftAt s.phase (s.rnd + 1).toNat < stepsLeftAt s.phase s.rnd.toNat
    rw [hp, rnd_add_one _ (by omega)]
    dsimp only [stepsLeftAt]
    omega
  | sdecRound hp hl _ =>
    refine .inr ⟨rfl, ?_⟩
    show stepsLeftAt s.phase (s.rnd - 1).toNat < stepsLeftAt s.phase s.rnd.toNat
    rw [hp, rnd_sub_one _ hl]
    dsimp only [stepsLeftAt]
    omega

/-- A busy engine that is consistent ends its command within any number of micro-steps that is not below those left. -/
theorem microSteps_end (k : Nat) (h : s.Inv) (hb : s.busy = true) (hk : s.stepsLeft ≤ k) :
    ∃ n, n ≤ k ∧ (microSteps n s).phase = .idle ∧ (microSteps n s).err = 0 := by
  induction k generalizing s with
  | zero =>
    have ⟨_, hp, _⟩ := h
    exact absurd hk (Nat.not_le.2 (stepsLeft_mem hp hb).1)
  | succ k ih =>
    have ⟨_, hp, _⟩ := h
    have hm := microStep_stepped hb fun hd => not_phaseOk_decode hd hp
    rcases hm.progress hp with hend | ⟨hb', hlt⟩
    · exact ⟨1, by omega, hend⟩
    · obtain ⟨n, hn, hend⟩ := ih (hm.inv h) (hb'.trans hb) (by omega)
      exact ⟨n + 1, by omega, hend⟩

end

/-- Settles O54: at most forty micro-steps are left, and each leaves one less or ends the command. -/
theorem busyEngineEndsWithinFortySteps : Obligations.BusyEngineEndsWithinFortySteps := fun _ h hb =>
  have ⟨_, hp, _⟩ := h
  microSteps_end 40 h hb (stepsLeft_mem hp hb).2

end Sys2Proof.Machine
end

section
/-! The two readings of a command (rules R71, R72, R261): its micro-steps lead to what the whole command leaves, and while they run a
held access waits. -/

namespace Sys2Proof.Machine

/-- A command is in one of its rounds (rule R33). -/
def State.InRound (s : State) : Prop := s.busy = true ∧ s.phase ≠ .decode

/-- The state `u` after a command's issue micro-step leads to the state `t` that the whole command leaves: by `m` micro-steps, with
the command in its rounds before each, where the command succeeds, and by none where it fails (rule R261). -/
structure Refines (m : Nat) (u t : State) : Prop where
  succeeds : t.err = 0 → microSteps m u = t ∧ ∀ n, n < m → (microSteps n u).InRound
  fails : t.err ≠ 0 → u = t

section
variable {s t : State} {i : Instr}

/-- A command that fails has ended in its issue micro-step. -/
theorem refines_fail (m : Nat) (s : State) (e : ErrKind) : Refines m (s.fail e) (s.fail e) :=
  ⟨fun h => absurd h (code_ne_zero e), fun _ => rfl⟩

/-- A command whose state after each round is known: `f n` after `n` of `m` rounds, one more round ending in `t`. -/
theorem refines_of_rounds {m : Nat} (f : Nat → State) (hf : ∀ n, (f n).InRound) (h : ∀ n, n < m → microStep (f n) = f (n + 1))
    (last : microStep (f m) = t.succeed) : Refines (m + 1) (f 0) t.succeed where
  succeeds _ := by
    have after : ∀ n, n ≤ m → microSteps n (f 0) = f n := microSteps_chain f m h
    refine ⟨?_, fun n hn => ?_⟩
    · rw [microSteps_succ, after m le_rfl, last]
    · rw [after n (by omega)]
      exact hf n
  fails h := absurd rfl h

/-- Where its check passes, a key command is its rounds; where not, it fails in both readings. -/
theorem keyCommand_refines {m : Nat} {len : BitVec 16} {start go : State → State}
    (pass : s.klen = len → Refines m (start s) (go s)) : Refines m (keyCommand len start s) (keyCommand len go s) := by
  by_cases h : s.klen = len
  · rw [keyCommand_pass h, keyCommand_pass h]; exact pass h
  · rw [keyCommand_badLength h, keyCommand_badLength h]; exact refines_fail m s _

/-- Where its checks pass, a transform is its rounds; where not, it fails in both readings. -/
theorem transformCommand_refines {m : Nat} {len : BitVec 16} {valid : Bool} {start go : State → State}
    (pass : Refines m (start s.clearDv) (go s.clearDv)) :
    Refines m (transformCommand len valid start s) (transformCommand len valid go s) := by
  by_cases h : s.blen = len
  · cases hv : valid
    · rw [transformCommand_noSchedule h rfl, transformCommand_noSchedule h rfl]; exact refines_fail m _ _
    · rw [transformCommand_pass h rfl, transformCommand_pass h rfl]; exact pass
  · rw [transformCommand_badLength h, transformCommand_badLength h]; exact refines_fail m _ _

/-- The rounds of FENC and FDEC make the transform whose keys come in the order that `DIR` says (rules R147, R148, R151). -/
theorem startFx_refines {keys : State → FrkBank} (hk : fxKeys s.clearDv = keys s.clearDv) :
    Refines 16 (startFx s) (transformCommand Config.feistelBits s.fkv
      (fun s => (s.installDout (feistelResult (feistelFX (feistelOperand s.din) (keys s)))).succeed) s) := by
  refine transformCommand_refines (refines_of_rounds (fxAfter s.clearDv) (fun _ => ⟨rfl, nofun⟩) (microStep_fxAfter _) ?_)
  rw [microStep_fxAfter_last, hk]

/-- The micro-steps of every command lead to what the whole command leaves, if `DIR` is the word's bit 0 (rules R141, R147, R148,
R183, R189, R194, R261). -/
theorem start_refines_exec (hd : s.work.dir = (encode i).getLsbD 0) (h : exec i s = .next t) :
    Refines (stepCount i - 1) (start i s) t := by
  cases i <;> cases h
  case fks =>
    show Refines 16 (startFks s) _
    exact keyCommand_refines fun _ => refines_of_rounds (fksAfter s) (fun _ => ⟨rfl, nofun⟩) (microStep_fksAfter s)
      (microStep_fksAfter_last s)
  case fenc => exact startFx_refines (keys := fun s => s.frk) (if_neg (by rw [State.clearDv_work, hd]; decide))
  case fdec => exact startFx_refines (keys := fun s => frkReversed s.frk) (if_pos (by rw [State.clearDv_work, hd]; decide))
  case skx =>
    show Refines 40 (startSkx s) _
    exact keyCommand_refines fun _ => refines_of_rounds (skxAfter s) (fun _ => ⟨rfl, nofun⟩) (microStep_skxAfter s)
      (microStep_skxAfter_last s)
  case senc =>
    show Refines 10 (startSenc s) _
    exact transformCommand_refines (refines_of_rounds (sencAfter s.clearDv) (fun _ => ⟨rfl, nofun⟩) (microStep_sencAfter _)
      (microStep_sencAfter_last _))
  case sdec =>
    show Refines 10 (startSdec s) _
    exact transformCommand_refines (refines_of_rounds (sdecAfter s.clearDv) (fun _ => ⟨rfl, nofun⟩) (microStep_sdecAfter _)
      (microStep_sdecAfter_last _))

/-- A key command passes on the reading, if what it does where it passes does so. -/
theorem keyCommand_withReading (r : Reading) {len : BitVec 16} {go : State → State}
    (hgo : go { s with reading := r } = { go s with reading := r }) :
    keyCommand len go { s with reading := r } = { keyCommand len go s with reading := r } :=
  keyCommand_related (R := fun t t' => t' = { t with reading := r }) rfl hgo rfl

/-- A transform passes on the reading, if what it does where it passes does so. -/
theorem transformCommand_withReading (r : Reading) {len : BitVec 16} {valid : Bool} {go : State → State}
    (hgo : go { s.clearDv with reading := r } = { go s.clearDv with reading := r }) :
    transformCommand len valid go { s with reading := r } = { transformCommand len valid go s with reading := r } :=
  transformCommand_related (R := fun t t' => t' = { t with reading := r }) rfl hgo fun _ => rfl

/-- A command does the same in a run of the other reading, which it neither reads nor changes. -/
theorem exec_withReading (r : Reading) (h : exec i s = .next t) :
    exec i { s with reading := r } = .next { t with reading := r } := by
  cases i <;> cases h
  case fks | skx => exact congrArg _ (keyCommand_withReading r rfl)
  case fenc | fdec | senc | sdec => exact congrArg _ (transformCommand_withReading r rfl)

/-- The engine's own step, with a command in its rounds, is one micro-step (rule R33). -/
theorem engineStep_of_inRound (h : s.InRound) : engineStep s = .next (microStep s) := by
  obtain ⟨hb, hd⟩ := h
  obtain ⟨t, ht⟩ := engineStep_next s
  rcases engineStep_cases ht with ⟨hb', -⟩ | ⟨hd', -⟩ | ⟨-, -, rfl⟩
  · exact absurd (hb.symm.trans hb') nofun
  · exact absurd hd' hd
  · exact ht

/-- While a command is in its rounds and a held access waits, each step of a run is one micro-step (rule R72). -/
theorem run_of_inRound (m : Nat) {a : HostAction} {rest : List HostAction} (hs : s.script = a :: rest) (ha : held a = true)
    (h : ∀ n, n < m → (microSteps n s).InRound) : Host.Core.run Sys2Proof.core m s = .next (microSteps m s) := by
  induction m generalizing s with
  | zero => rfl
  | succ m ih =>
    obtain ⟨hb, hd⟩ := h 0 (Nat.succ_pos m)
    have hstep : step s = .next (microStep s) := (step_of_held hb hs ha).trans (engineStep_of_inRound ⟨hb, hd⟩)
    obtain ⟨-, -, -, -, -, -, hscript, -⟩ := microStep_frame s
    rw [run_next m hstep]
    exact ih (hscript.trans hs) fun n hn => h (n + 1) (by omega)

/-- The state in which an issued command runs: its word is in `CMD` and latched, and the host's program goes on (rules R22, R96). -/
def State.issued (s : State) (i : Instr) (rest : List HostAction) : State :=
  ({ s with cmd := encode i, script := rest } : State).latch (encode i)

/-- Either entry that issues a command launches it (rules R96, R97). -/
theorem step_of_command {rest : List HostAction} (hb : s.busy = false) (hf : s.fatal = false)
    (hs : s.script = .cmd i :: rest ∨ s.script = .wr 0 (.w8 (encode i)) :: rest) : step s = launch i (s.issued i rest) := by
  have issued : issue { s with cmd := encode i, script := rest } = launch i (s.issued i rest) := by
    unfold issue
    rw [if_neg (by simp [hf])]
    simp only [decode_encode]
    rfl
  rcases hs with hs | hs <;> exact (step_of_not_busy hb hs).trans issued

/-- In the stepwise reading an issued command, with a held access behind it, leaves what its micro-steps lead to, after its
`stepCount` steps or, where it fails, after one (rules R72, R261). -/
theorem run_of_command {a : HostAction} {rest : List HostAction} (hb : s.busy = false) (hf : s.fatal = false)
    (hr : s.reading = .stepwise)
    (hs : s.script = .cmd i :: a :: rest ∨ s.script = .wr 0 (.w8 (encode i)) :: a :: rest) (ha : held a = true)
    (ht : Refines (stepCount i - 1) (start i (s.issued i (a :: rest))) t) :
    Host.Core.run Sys2Proof.core (if t.err = 0 then stepCount i else 1) s = .next t := by
  have hfirst : step s = .next (start i (s.issued i (a :: rest))) := by
    rw [step_of_command hb hf hs, launch, show (s.issued i (a :: rest)).reading = .stepwise from hr]
  by_cases he : t.err = 0
  · obtain ⟨hend, hrounds⟩ := ht.succeeds he
    obtain ⟨-, -, -, -, -, -, hwait, -⟩ := start_frame i (s.issued i (a :: rest))
    have hcount : stepCount i = stepCount i - 1 + 1 := by cases i <;> rfl
    rw [if_pos he, hcount, run_next _ hfirst, run_of_inRound _ hwait ha hrounds, hend]
  · rw [if_neg he, run_next 0 hfirst, ht.fails he]
    rfl

end

/-- Settles O12: both readings run the command on the same state but for the reading, and its micro-steps lead to what the whole
command leaves. -/
theorem heldAccessSeesFinalResults : Obligations.HeldAccessSeesFinalResults := by
  intro s t i a rest hp hf hr hs ha ht
  have hb : s.busy = false := busy_eq_false.2 (.inl hp)
  have hexec : exec i (s.issued i (a :: rest)) = .next t := by
    rw [step_of_command hb hf hs, launch, show (s.issued i (a :: rest)).reading = .whole from hr] at ht
    exact ht
  obtain ⟨-, -, -, -, -, -, hscript, -, -, hbusy⟩ := (exec_ends hexec).frame
  have hstepwise : exec i (State.issued { s with reading := .stepwise } i (a :: rest)) = .next { t with reading := .stepwise } :=
    exec_withReading (s := s.issued i (a :: rest)) .stepwise hexec
  exact ⟨hbusy, hscript, run_of_command (s := { s with reading := .stepwise }) hb hf rfl hs ha (start_refines_exec rfl hstepwise)⟩

end Sys2Proof.Machine
end

section
/-! The Codec's two functions (rules R111 to R113): how many bits a text has, when it has none, and the text that spells given bits. -/

namespace Sys2Proof.Machine

/-- Four bits a digit (rule R111). -/
theorem length_of_hexBits {t : Text} {b : BitSeq} (h : hexBits t = some b) : b.length = 4 * t.length := by
  induction t generalizing b with
  | nil => cases h; rfl
  | cons c t ih =>
    obtain ⟨d, rest, -, hrest, rfl⟩ := hexBits_cons_eq_some h
    simp only [List.length_append, seqOf_four, List.length_cons, List.length_nil, ih hrest]
    omega

/-- A text has no bits exactly where one of its characters is not a digit (rule R113). -/
theorem hexBits_eq_none {t : Text} : hexBits t = none ↔ ∃ c ∈ t, hexDigit c = none := by
  induction t with
  | nil => simp [hexBits]
  | cons c t ih =>
    rw [List.exists_mem_cons_iff, ← ih]
    cases hd : hexDigit c <;> cases ht : hexBits t <;> simp [hexBits, hd, ht]

/-- Four bits, put together and laid out again. -/
theorem seqOf_ofBoolListBE_four (a b c d : Bool) : seqOf (BitVec.ofBoolListBE [a, b, c, d]) = [a, b, c, d] := by
  revert a b c d; decide

/-- Bits in whole digits have a text, one digit for each four of them, that reads back as them (rules R112, R116). -/
theorem exists_bitsToHex (n : Nat) {b : BitSeq} (h : b.length = 4 * n) :
    ∃ t : Text, bitsToHex b = .ok t ∧ hexToBits t = .ok b ∧ t.length = n := by
  induction n generalizing b with
  | zero => obtain rfl := List.length_eq_zero_iff.1 h; exact ⟨[], rfl, rfl, rfl⟩
  | succ n ih =>
    match b, h with
    | b₃ :: b₂ :: b₁ :: b₀ :: rest, h =>
      have hrest : rest.length = 4 * n := by simp only [List.length_cons] at h; omega
      obtain ⟨t, ht, hback, hlen⟩ := ih hrest
      refine ⟨upperDigit (BitVec.ofBoolListBE [b₃, b₂, b₁, b₀]) :: t, ?_, ?_, congrArg (· + 1) hlen⟩
      · rw [bitsToHex, ht]
      · rw [hexToBits_eq_ok, hexBits_cons _ _ _ _ (hexDigit_upperDigit _) (hexToBits_eq_ok.1 hback), seqOf_ofBoolListBE_four]
        rfl

/-- The bit sequence of an `n`-bit value has `n` positions (rule R7). -/
theorem length_seqOf {n : Nat} (v : BitVec n) : (seqOf v).length = n := by rw [seqOf, List.length_map, List.length_range]

end Sys2Proof.Machine
end

section
/-! The command words (rules R90 to R96): which words are commands, what a write of one to `CMD` runs, and the commands that end in
their issue step. -/

namespace Sys2Proof.Machine

section
variable {s t : State} {len : BitVec 16} {start go : State → State}

/-- A key command that ends with an error has failed its check, and then what it does where its check passes does not matter. -/
theorem keyCommand_eq_of_err (hgo : (go s).err = 0) (he : (keyCommand len go s).err ≠ 0) :
    keyCommand len start s = keyCommand len go s := by
  by_cases h : s.klen = len
  · rw [keyCommand_pass h] at he; exact absurd hgo he
  · rw [keyCommand_badLength h, keyCommand_badLength h]

/-- A transform that ends with an error has failed one of its checks, and then what it does where they pass does not matter. -/
theorem transformCommand_eq_of_err {valid : Bool} (hgo : (go s.clearDv).err = 0)
    (he : (transformCommand len valid go s).err ≠ 0) :
    transformCommand len valid start s = transformCommand len valid go s := by
  by_cases h : s.blen = len
  · cases hv : valid
    · rw [transformCommand_noSchedule h rfl, transformCommand_noSchedule h rfl]
    · rw [hv, transformCommand_pass h rfl] at he; exact absurd hgo he
  · rw [transformCommand_badLength h, transformCommand_badLength h]

end

/-- Settles O49: what a command does where its checks pass ends without an error, so an error is a failed check's, which the issue
micro-step makes too. -/
theorem failedValidationTakesOneStep : Obligations.FailedValidationTakesOneStep := by
  intro i s t h he
  obtain ⟨-, -, -, -, -, -, -, -, -, hbusy⟩ := (exec_ends h).frame
  refine ⟨?_, hbusy⟩
  cases i <;> cases h
  case fks | skx => rw [start]; exact keyCommand_eq_of_err rfl he
  case fenc | fdec | senc | sdec => rw [start]; exact transformCommand_eq_of_err rfl he

/-- The reserved bits are not 0 from the word 0x08 on (rule R94). -/
theorem fieldRSV_ne_zero : ∀ x : BitVec 8, 0x08 ≤ x → fieldRSV x ≠ 0 := by decide

/-- Settles O1: the six words are the commands' own, and from 0x08 on the reserved bits are checked first. -/
theorem sixWordsDecodeAndTheOthersAreIllegal : Obligations.SixWordsDecodeAndTheOthersAreIllegal :=
  ⟨⟨decode_encode .fks, decode_encode .fenc, decode_encode .fdec, decode_encode .skx, decode_encode .senc, decode_encode .sdec⟩,
    ⟨rfl, rfl⟩, fun x hx => if_pos (fieldRSV_ne_zero x hx)⟩

/-- Settles O2: the round trip of a command, and that of a word. -/
theorem decodeAndEncodeAgree : Obligations.DecodeAndEncodeAgree := ⟨decode_encode, fun _ _ => encode_of_decode⟩

/-- In the whole reading a command is launched by running it (rule R261). -/
theorem launch_whole (i : Instr) {s : State} (h : s.reading = .whole) : launch i s = exec i s := by rw [launch, h]

/-- In the stepwise reading a command is launched by its issue micro-step (rule R261). -/
theorem launch_stepwise (i : Instr) {s : State} (h : s.reading = .stepwise) : launch i s = .next (start i s) := by rw [launch, h]

/-- Settles O13: the word is the command's own, so that both entries launch the command, as the reading says. -/
theorem cmdWriteRunsTheDecodedCommand : Obligations.CmdWriteRunsTheDecodedCommand := by
  intro s x i rest hb hf hd hs
  obtain rfl := encode_of_decode hd
  have hstep : step s = launch i (s.issued i rest) := step_of_command hb hf (hs.symm.imp_left And.left)
  exact ⟨fun hr => hstep.trans (launch_whole i (s := s.issued i rest) hr),
    fun hr => hstep.trans (launch_stepwise i (s := s.issued i rest) hr)⟩

end Sys2Proof.Machine
end

section
/-! The pseudo-instructions (rules R98, R113, R222): the entries that load an operand, and those that read the result as a text. -/

namespace Sys2Proof.Machine

section
variable {s : State} {t : Text} {operand length : Nat} {more rest : List HostAction}

/-- Where the text is hexadecimal, a load's two lines come next in the program; its length is four bits a digit (rule R98). -/
theorem expand_hex {b : BitSeq} (h : hexToBits t = .ok b) :
    expand operand length t more rest s =
      s.continueWith (.wr operand (.w128 (BitVec.ofNat 128 (seqValue b))) ::
        .wr length (.w16 (BitVec.ofNat 16 (min (4 * t.length) 65535))) :: (more ++ rest)) := by
  rw [expand, loadLines, h, ← length_of_hexBits (hexToBits_eq_ok.1 h)]
  rfl

/-- Where a character is no digit, a load ends at the boundary and leaves no line of itself (rules R113, R222). -/
theorem expand_notHex (h : ∃ c ∈ t, hexDigit c = none) :
    expand operand length t more rest s = (s.log (.boundary .invalidEncoding)).continueWith rest := by
  rw [expand, loadLines, hexToBits_eq_error.2 ⟨hexBits_eq_none.2 h, rfl⟩]

/-- `RDOUT64` and `RDOUT128` give `DOUT` and the text of the bits they take from it, where these make whole digits (rule R98). -/
theorem exists_readText (bits : Block128 → BitSeq) (n : Nat) (h : (bits s.doutRead).length = 4 * n) :
    ∃ x : Text, hexToBits x = .ok (bits s.doutRead) ∧ x.length = n ∧
      readText bits s = .next ((readBack 7 s).log (.text x)) := by
  obtain ⟨x, hx, hback, hlen⟩ := exists_bitsToHex n h
  exact ⟨x, hback, hlen, by rw [readText, hx]⟩

end

/-- Settles O57: no entry of the five is held, so that a load expands and a `WAIT` reads `STATUS`, busy or not. -/
theorem loadKeyExpandsOrFailsAtTheBoundary : Obligations.LoadKeyExpandsOrFailsAtTheBoundary := by
  refine ⟨fun s x a operand length more rest ha hs => ?_, fun s rest hs => step_of_not_held (.inr rfl) hs⟩
  have hstep : step s = .next (expand operand length x more rest s) := by
    simp only [List.mem_cons, Prod.mk.injEq, List.not_mem_nil, or_false] at ha
    rcases ha with ⟨rfl, rfl, rfl, rfl⟩ | ⟨rfl, rfl, rfl, rfl⟩ | ⟨rfl, rfl, rfl, rfl⟩ | ⟨rfl, rfl, rfl, rfl⟩ <;>
      exact step_of_not_held (.inr rfl) hs
  exact ⟨fun b hb => by rw [hstep, expand_hex hb]; rfl, fun hc => by rw [hstep, expand_notHex hc]; rfl⟩

/-- Settles O58: 64 and 128 bits make 16 and 32 whole digits, so that the reading is never refused. -/
theorem readDoutAsText : Obligations.ReadDoutAsText := by
  refine fun s rest hb => ⟨fun hs => ?_, fun hs => ?_⟩ <;> rw [step_of_not_busy hb hs]
  · exact exists_readText (s := s.continueWith rest) (fun v => seqOf (feistelOperand v)) 16 (length_seqOf _)
  · exact exists_readText (s := s.continueWith rest) seqOf 32 (length_seqOf _)

end Sys2Proof.Machine
end

section
/-! The Codec's laws (rules R110 to R113, R116): the digits are the characters of the table's rows, texts concatenate, and the way
back from bits to a text. -/

namespace Sys2Proof.Machine

/-- A digit is one of the two characters of a row, and has that row's bits (rule R110). -/
theorem exists_row_of_hexDigit {c : Char} {d : BitVec 4} (h : hexDigit c = some d) :
    ∃ row ∈ tabHEXDIGIT, (c = row.1 ∨ c = row.2.1) ∧ d = row.2.2 := by
  obtain ⟨row, hfind, rfl⟩ := hexDigit_eq_some.1 h
  have hc := List.find?_some hfind
  simp only [Bool.or_eq_true, beq_iff_eq] at hc
  exact ⟨row, List.mem_of_find?_eq_some hfind, hc.imp Eq.symm Eq.symm, rfl⟩

/-- Pairs of a digit and its bits that cover both characters of every row are all the digits there are. -/
theorem hexDigit_eq_some_iff_mem {pairs : List (Char × BitVec 4)} (hvalid : ∀ p ∈ pairs, hexDigit p.1 = some p.2)
    (hcover : ∀ row ∈ tabHEXDIGIT, (row.1, row.2.2) ∈ pairs ∧ (row.2.1, row.2.2) ∈ pairs) (c : Char) (d : BitVec 4) :
    hexDigit c = some d ↔ (c, d) ∈ pairs := by
  refine ⟨fun h => ?_, hvalid (c, d)⟩
  obtain ⟨row, hrow, rfl | rfl, rfl⟩ := exists_row_of_hexDigit h
  · exact (hcover row hrow).1
  · exact (hcover row hrow).2

/-- The bits of two texts joined are the bits of each, joined (rule R116). -/
theorem hexBits_append {t u : Text} {b c : BitSeq} (ht : hexBits t = some b) (hu : hexBits u = some c) :
    hexBits (t ++ u) = some (b ++ c) := by
  induction t generalizing b with
  | nil => cases ht; exact hu
  | cons x t ih =>
    obtain ⟨d, rest, hd, hrest, rfl⟩ := hexBits_cons_eq_some ht
    rw [List.cons_append, hexBits_cons _ _ _ _ hd (ih hrest), List.append_assoc]

/-- Settles O55: the 22 pairs cover the table, and each law of a text is that of its bits. -/
theorem hexToBitsLaws : Obligations.HexToBitsLaws := by
  refine ⟨hexDigit_eq_some_iff_mem (by decide) (by decide), fun t => ?_, fun t b h => length_of_hexBits (hexToBits_eq_ok.1 h),
    fun t u b c ht hu => ?_, rfl, fun c d hd => ?_⟩
  · rw [hexToBits_eq_error, and_iff_left rfl, hexBits_eq_none]
  · exact hexToBits_eq_ok.2 (hexBits_append (hexToBits_eq_ok.1 ht) (hexToBits_eq_ok.1 hu))
  · exact hexToBits_eq_ok.2 (hexBits_cons c [] d [] hd rfl)

/-- The upper-case digit of a digit's bits is the digit in upper case (rule R112). -/
theorem upperDigit_of_hexDigit {c : Char} {d : BitVec 4} (h : hexDigit c = some d) : upperDigit d = c.toUpper := by
  have hrows : ∀ row ∈ tabHEXDIGIT, upperDigit row.2.2 = row.1.toUpper ∧ upperDigit row.2.2 = row.2.1.toUpper := by decide
  obtain ⟨row, hrow, rfl | rfl, rfl⟩ := exists_row_of_hexDigit h
  · exact (hrows row hrow).1
  · exact (hrows row hrow).2

/-- Four bits, laid out and put together again. -/
theorem ofBoolListBE_seqOf_four :
    ∀ d : BitVec 4, BitVec.ofBoolListBE [d.getLsbD 3, d.getLsbD 2, d.getLsbD 1, d.getLsbD 0] = d := by decide

/-- Four bits in front give their upper-case digit in front (rule R112). -/
theorem bitsToHex_seqOf_append (d : BitVec 4) {b : BitSeq} {t : Text} (h : bitsToHex b = .ok t) :
    bitsToHex (seqOf d ++ b) = .ok (upperDigit d :: t) := by
  simp only [seqOf_four, List.cons_append, List.nil_append, bitsToHex, h, ofBoolListBE_seqOf_four]

/-- The text of a text's bits is the text in upper case (rule R116). -/
theorem bitsToHex_of_hexBits {t : Text} {b : BitSeq} (h : hexBits t = some b) : bitsToHex b = .ok (t.map Char.toUpper) := by
  induction t generalizing b with
  | nil => cases h; rfl
  | cons c t ih =>
    obtain ⟨d, rest, hd, hrest, rfl⟩ := hexBits_cons_eq_some h
    rw [bitsToHex_seqOf_append d (ih hrest), upperDigit_of_hexDigit hd, List.map_cons]

/-- Bits that are not in whole digits have no text (rule R112): taking four off leaves as many over, and at the end one to three. -/
theorem bitsToHex_notWholeDigits (b : BitSeq) (h : b.length % 4 ≠ 0) : bitsToHex b = .error .notWholeDigits := by
  match b with
  | [] => exact absurd rfl h
  | [_] | [_, _] | [_, _, _] => rfl
  | _ :: _ :: _ :: _ :: rest =>
    have hrest : rest.length % 4 ≠ 0 := by simpa only [List.length_cons, Nat.add_assoc, Nat.add_mod_right] using h
    rw [bitsToHex, bitsToHex_notWholeDigits rest hrest]

/-- Settles O56: a text from its bits, bits from their text, and the bits that have no text. -/
theorem codecRoundTrip : Obligations.CodecRoundTrip :=
  ⟨fun _ _ h => bitsToHex_of_hexBits (hexToBits_eq_ok.1 h),
    fun b h => exists_bitsToHex (b.length / 4) (Nat.mul_div_cancel' (Nat.dvd_of_mod_eq_zero h)).symm, bitsToHex_notWholeDigits⟩

end Sys2Proof.Machine
end

section
/-! Two permutations that undo each other (rules R9, R122). -/

namespace Sys2Proof.Machine

/-- A permutation undoes another when following the outer table's entry into the inner table leads back to the position it
started from. -/
theorem perm_perm_eq_self {m n : Nat} {T U : List Nat} (hT : T.length = n) (hU : U.length = m)
    (h : ∀ q ≤ n, 1 ≤ q → 1 ≤ T.getD (q - 1) 0 ∧ T.getD (q - 1) 0 ≤ m ∧ U.getD (T.getD (q - 1) 0 - 1) 0 = q)
    (v : BitVec n) : perm n T (perm m U v) = v := by
  subst hT hU
  refine eq_of_pos fun q h1 hq => ?_
  obtain ⟨hlow, hhigh, hback⟩ := h q hq h1
  rw [pos_perm T _ h1 hq, pos_perm U v hlow hhigh, hback]

/-- Settles O34: `IP` and `FP` are each other's inverse as tables, so each permutation undoes the other. -/
theorem finalPermutationInvertsInitial : Obligations.FinalPermutationInvertsInitial := fun v =>
  ⟨perm_perm_eq_self (T := tabFP) (U := tabIP) rfl rfl (by decide) v,
    perm_perm_eq_self (T := tabIP) (U := tabFP) rfl rfl (by decide) v⟩

end Sys2Proof.Machine
end

section
/-! What a whole command leaves where its checks pass (rules R141, R147, R148, R189, R194). -/

namespace Sys2Proof.Machine

section
variable {s : State}

theorem exec_fks_pass (h : s.klen = 64) : exec .fks s = .next (s.installFrk (feistelKS (feistelOperand s.key))).succeed :=
  congrArg _ (keyCommand_pass h)

theorem exec_fenc_pass (h : s.blen = 64) (hv : s.fkv = true) :
    exec .fenc s = .next (s.clearDv.installDout (feistelResult (feistelFX (feistelOperand s.din) s.frk))).succeed :=
  congrArg _ (transformCommand_pass h hv)

theorem exec_fdec_pass (h : s.blen = 64) (hv : s.fkv = true) :
    exec .fdec s = .next (s.clearDv.installDout (feistelResult (feistelFX (feistelOperand s.din) (frkReversed s.frk)))).succeed :=
  congrArg _ (transformCommand_pass h hv)

theorem exec_senc_pass (h : s.blen = 128) (hv : s.skv = true) :
    exec .senc s = .next (s.clearDv.installDout (spnSE (spnOperand s.din) s.w)).succeed := congrArg _ (transformCommand_pass h hv)

theorem exec_sdec_pass (h : s.blen = 128) (hv : s.skv = true) :
    exec .sdec s = .next (s.clearDv.installDout (spnSD (spnOperand s.din) s.w)).succeed := congrArg _ (transformCommand_pass h hv)

end

/-- Entry `i` of the reversed bank (rule R148). -/
theorem getElem_frkReversed (ks : FrkBank) (i : Fin 16) : (frkReversed ks)[i] = ks[15 - i.val] := Vector.getElem_ofFn _

/-- Settles O18: the command installs the transform of the operand under the bank in its order, and succeeds. -/
theorem fencAndFdecTransformTheBlock : Obligations.FencAndFdecTransformTheBlock := fun s hb hv =>
  ⟨⟨freeWork s.free, s.free + 1, exec_fenc_pass hb hv⟩,
    ⟨frkReversed s.frk, freeWork s.free, s.free + 1, getElem_frkReversed s.frk, exec_fdec_pass hb hv⟩⟩

end Sys2Proof.Machine
end

section
/-! The key schedule (rules R140 to R142, R149 (c), (d)): a half after some rounds is one rotation of the half at the start, and the
parity strip reads no parity position. -/

namespace Sys2Proof.Machine

/-- `rotl` by less than the width is the library's rotation. -/
theorem rotl_eq_rotateLeft {n k : Nat} (v : BitVec n) (h : k < n) : rotl v k = v.rotateLeft k := by
  rw [rotl, BitVec.rotateLeft_def, Nat.mod_eq_of_lt h]

/-- No bit moves in a rotation by 0. -/
theorem rotl_zero {n : Nat} (v : BitVec n) : rotl v 0 = v := by
  rw [rotl, BitVec.shiftLeft_zero, Nat.sub_zero, BitVec.ushiftRight_eq_zero le_rfl, BitVec.or_zero]

/-- Two rotations in a row are one, by the sum of their counts modulo the width: from the left, each moves every position by its
count. -/
theorem rotl_rotl {n a b : Nat} (v : BitVec n) (ha : a < n) (hb : b < n) : rotl (rotl v a) b = rotl v ((a + b) % n) := by
  rw [rotl_eq_rotateLeft v ha, rotl_eq_rotateLeft _ hb, rotl_eq_rotateLeft v (Nat.mod_lt _ (by omega))]
  refine BitVec.eq_of_getMsbD_eq fun i hi => ?_
  have hidx : (b + i) % n < n := Nat.mod_lt _ (by omega)
  simp only [BitVec.getMsbD_rotateLeft, hi, hidx, decide_true, Bool.true_and]
  congr 1
  simp only [Nat.add_mod_mod, Nat.mod_add_mod, Nat.add_assoc]

/-- The running total `s_i = SHIFT[1] + … + SHIFT[i]` (rule R142). -/
def shiftTotal (i : Nat) : Nat := (tabSHIFT.take i).sum

/-- One shift count more; past the table's end there is none. -/
theorem shiftTotal_succ (i : Nat) : shiftTotal (i + 1) = shiftTotal i + tabSHIFT.getD i 0 := by
  unfold shiftTotal
  rw [List.take_add_one, List.sum_append, List.getD_eq_getElem?_getD]
  cases tabSHIFT[i]? <;> rfl

/-- The running totals, written out (rules R127, R142). -/
theorem shiftTotal_table (i : Fin 16) :
    [1, 2, 4, 6, 8, 10, 12, 14, 15, 17, 19, 21, 23, 25, 27, 28].getD i.val 0 = shiftTotal (i.val + 1) := by
  revert i; decide

/-- No round shifts by more than 2 (rule R127). -/
theorem tabSHIFT_getD_le (i : Nat) : tabSHIFT.getD i 0 ≤ 2 := by
  rw [List.getD_eq_getElem?_getD]
  cases h : tabSHIFT[i]? with
  | none => exact Nat.zero_le 2
  | some n => exact (by decide : ∀ n ∈ tabSHIFT, n ≤ 2) n (List.mem_of_getElem? h)

/-- A half after `i` rounds is the half at the start, rotated by the running total modulo 28 (rule R142). -/
theorem ksRotated_eq_rotl (h : Half28) (i : Nat) : ksRotated h i = rotl h (shiftTotal i % 28) := by
  induction i with
  | zero => exact (rotl_zero h).symm
  | succ i ih =>
    have hi : tabSHIFT.getD i 0 < 28 := lt_of_le_of_lt (tabSHIFT_getD_le i) (by decide)
    rw [ksRotated, ih, rotl_rotl h (Nat.mod_lt _ (by decide)) hi, shiftTotal_succ, Nat.mod_add_mod]

/-- The two halves of the parity-stripped key are the 28 upper and the 28 lower bits (rule R140). -/
theorem ksHalves_of_append {k : Block64} {c d : Half28} (h : c ++ d = perm 56 tabPC1 k) : ksC0 k = c ∧ ksD0 k = d := by
  rw [ksC0, ksD0, ← h]
  exact ⟨BitVec.extractLsb'_append_eq_left, BitVec.extractLsb'_append_eq_right⟩

/-- Settles O17: the round keys are compressions of rotated halves, and the halves' rotations add up. -/
theorem fksWritesTheKeySchedule : Obligations.FksWritesTheKeySchedule := by
  refine fun s hl => ⟨feistelKS (feistelOperand s.key), freeWork s.free, s.free + 1, exec_fks_pass hl, ?_⟩
  intro i c d h
  obtain ⟨hc, hd⟩ := ksHalves_of_append (k := feistelOperand s.key) h
  rw [shiftTotal_table, ← ksRotated_eq_rotl, ← ksRotated_eq_rotl, ← hc, ← hd]
  exact Vector.getElem_ofFn _

/-- A permutation depends on the positions its table names only (rule R11). -/
theorem perm_congr {m n : Nat} {T : List Nat} {v w : BitVec n} (h : ∀ p ∈ T, pos v p = pos w p) : perm m T v = perm m T w :=
  congrArg (BitVec.ofNat m) (List.foldl_ext _ _ _ fun acc p hp => by rw [h p hp])

/-- The parity strip names no parity position, that is none that is a multiple of 8 (rule R125). -/
theorem tabPC1_no_parity : ∀ p ∈ tabPC1, pos (0xFEFEFEFEFEFEFEFE : Block64) p = true := by decide

/-- A change of parity positions does not show after the parity strip. -/
theorem perm_tabPC1_xor {k m : Block64} (hm : m &&& 0xFEFEFEFEFEFEFEFE = 0) : perm 56 tabPC1 (k ^^^ m) = perm 56 tabPC1 k := by
  refine perm_congr fun p hp => ?_
  have hmask : (m &&& 0xFEFEFEFEFEFEFEFE).getLsbD (64 - p) = false := by rw [hm]; exact BitVec.getLsbD_zero
  have hzero : m.getLsbD (64 - p) = false := by
    rwa [BitVec.getLsbD_and, show BitVec.getLsbD (0xFEFEFEFEFEFEFEFE : Block64) (64 - p) = true from tabPC1_no_parity p hp,
      Bool.and_true] at hmask
  rw [pos, BitVec.getLsbD_xor, hzero, Bool.xor_false, pos]

/-- Settles O35: the schedule takes of the key its parity strip alone, and the sixteen shift counts add up to 28. -/
theorem keyScheduleIgnoresParityAndReturns : Obligations.KeyScheduleIgnoresParityAndReturns := by
  refine ⟨fun k m hm => ?_, fun h => ?_⟩
  · simp only [feistelKS, ksRoundKey, ksC0, ksD0, perm_tabPC1_xor hm]
  · calc ksRotated h 16 = rotl h (shiftTotal 16 % 28) := ksRotated_eq_rotl h 16
      _ = rotl h 0 := by rw [show shiftTotal 16 = 28 by decide]
      _ = h := rotl_zero h

end Sys2Proof.Machine
end

section
/-! The block transform (rules R145 to R149): its halves round by round, and the transform with the keys reversed. -/

namespace Sys2Proof.Machine

/-- One round more, at the end of the rounds. -/
theorem feistelRounds_concat (i : Nat) (lr : Half32 × Half32) (ks : List RoundKey) (k : RoundKey) :
    feistelRounds i lr (ks ++ [k]) = feistelRound (i + ks.length) (feistelRounds i lr ks) k := by
  induction ks generalizing i lr with
  | nil => rfl
  | cons k' ks ih =>
    rw [List.cons_append, feistelRounds, feistelRounds, ih, List.length_cons, Nat.add_assoc, Nat.add_comm 1]

/-- The halves of the block transform after `n` rounds (rule R146). -/
def feistelHalves (b : Block64) (ks : FrkBank) (n : Nat) : Half32 × Half32 := feistelRounds 1 (fxLoad b) (ks.toList.take n)

theorem feistelHalves_succ (b : Block64) (ks : FrkBank) {n : Nat} (h : n < 16) :
    feistelHalves b ks (n + 1) = feistelRound (n + 1) (feistelHalves b ks n) ks[n] := by
  have hn : n < ks.toList.length := by rwa [Vector.length_toList]
  rw [feistelHalves, List.take_succ_eq_append_getElem hn, feistelRounds_concat, List.length_take_of_le hn.le, Nat.add_comm 1,
    Vector.getElem_toList, feistelHalves]

theorem feistelFX_eq_unload (b : Block64) (ks : FrkBank) : feistelFX b ks = fxUnload (feistelHalves b ks 16) := by
  rw [feistelHalves, List.take_of_length_le (by rw [Vector.length_toList]), feistelFX]

/-- The loaded halves are those of the initial permutation (rule R146). -/
theorem fxLoad_append (b : Block64) : (fxLoad b).1 ++ (fxLoad b).2 = perm 64 tabIP b :=
  (BitVec.extractLsb'_append_extractLsb'_eq_extractLsb' rfl).trans BitVec.extractLsb'_eq_self

/-- Settles O19: the halves after each round, the rounds before the sixteenth being those that swap. -/
theorem feistelTransformByRounds : Obligations.FeistelTransformByRounds := by
  intro b ks
  refine ⟨fun n => (feistelHalves b ks n).1, fun n => (feistelHalves b ks n).2, fxLoad_append b, fun i hi => ?_, ?_⟩
  · have hround : i + 1 < Config.fRounds := Nat.succ_lt_succ hi
    simp only [feistelHalves_succ b ks (Nat.lt_succ_of_lt hi), feistelRound, if_pos hround, and_self]
  · have hlast : feistelHalves b ks 16 = feistelRound 16 (feistelHalves b ks 15) ks[15] := feistelHalves_succ b ks (by decide)
    exact ⟨(congrArg Prod.fst hlast :), (congrArg Prod.snd hlast :), feistelFX_eq_unload b ks⟩

theorem fxLoad_fxUnload (lr : Half32 × Half32) : fxLoad (fxUnload lr) = lr := by
  obtain ⟨l, r⟩ := lr
  simp only [fxLoad, fxUnload, (finalPermutationInvertsInitial _).2]
  exact Prod.ext BitVec.extractLsb'_append_eq_left BitVec.extractLsb'_append_eq_right

theorem fxUnload_fxLoad (b : Block64) : fxUnload (fxLoad b) = b := by
  rw [fxUnload, fxLoad_append, (finalPermutationInvertsInitial b).1]

/-- The transform as swapping rounds, the last swap undone (rules R145, R146). -/
theorem feistelFX_eq_swap (b : Block64) (ks : FrkBank) :
    feistelFX b ks = fxUnload (ks.toList.foldl feistelSwapRound (fxLoad b)).swap := by
  have hlen : ks.toList.length = 16 := Vector.length_toList
  rw [feistelFX, feistelRounds_eq_swap _ _ _ (by rw [hlen]) (List.ne_nil_of_length_pos (by rw [hlen]; decide))]

/-- The transform under reversed keys undoes the transform: its rounds retrace the transform's (rule R149 (a)). -/
theorem feistelFX_of_reverse (b : Block64) {ks kr : FrkBank} (h : kr.toList = ks.toList.reverse) :
    feistelFX (feistelFX b ks) kr = b := by
  rw [feistelFX_eq_swap (feistelFX b ks), feistelFX_eq_swap b, fxLoad_fxUnload, h, feistelSwapRound_foldl_reverse, Prod.swap_swap,
    fxUnload_fxLoad]

/-- A bank whose entries are another's from the end on is its reverse as a list. -/
theorem toList_eq_reverse {ks kr : FrkBank} (h : ∀ i : Fin 16, kr[i] = ks[15 - i.val]) : kr.toList = ks.toList.reverse := by
  refine List.ext_getElem (by simp) fun i hi _ => ?_
  rw [Vector.length_toList] at hi
  rw [List.getElem_reverse, Vector.getElem_toList, Vector.getElem_toList]
  simpa using h ⟨i, hi⟩

/-- Settles O36: the reverse of the reversed keys are the keys themselves. -/
theorem feistelRoundTrip : Obligations.FeistelRoundTrip := by
  intro b ks kr h
  have hkr : kr.toList = ks.toList.reverse := toList_eq_reverse h
  exact ⟨feistelFX_of_reverse b hkr, feistelFX_of_reverse b (by rw [hkr, List.reverse_reverse])⟩

end Sys2Proof.Machine
end

section
/-! The S-layer and its boxes (rules R136, R137, R143, R144). -/

namespace Sys2Proof.Machine

/-- An entry of rows laid out one after another, each of width `w`: row `r`, column `c` is at place `w·r + c`. -/
theorem getElem?_flatten_of_rows {α : Type*} {w : Nat} {rows : List (List α)} (h : ∀ row ∈ rows, row.length = w) (r : Nat)
    {c : Nat} (hc : c < w) : rows.flatten[w * r + c]? = rows[r]?.bind (·[c]?) := by
  induction rows generalizing r with
  | nil => rfl
  | cons row rows ih =>
    obtain ⟨hrow, hrows⟩ := List.forall_mem_cons.1 h
    rw [List.flatten_cons]
    cases r with
    | zero =>
      rw [Nat.mul_zero, Nat.zero_add, List.getElem?_append_left (hrow.symm ▸ hc)]
      rfl
    | succ r =>
      have hplace : w * (r + 1) + c - row.length = w * r + c := by rw [hrow, Nat.mul_succ]; omega
      rw [List.getElem?_append_right (by rw [hrow, Nat.mul_succ]; omega), hplace, ih hrows r, List.getElem?_cons_succ]

/-- Every box has four rows of sixteen (rule R136). -/
theorem sboxTable_shape (j : Fin 8) :
    (sboxTable (j.val + 1)).length = 4 ∧ ∀ row ∈ sboxTable (j.val + 1), row.length = 16 := by
  revert j; decide

/-- Every row of every box holds all of 0 to 15 (41_feistel_tables.md section 5). -/
theorem mem_row_of_sboxTable (j : Fin 8) : ∀ row ∈ sboxTable (j.val + 1), ∀ x : BitVec 4, x ∈ row := by
  revert j; decide

/-- The entry of a box that a 6-bit group names is in range: the row is one of four, the column one of sixteen
(rules R136, R137). -/
theorem tabRead_sboxOut (j : Fin 8) (g : BitVec 6) :
    tabRead (.s j) (16 * (2 * (g.getLsbD 5).toNat + (g.getLsbD 0).toNat) + (g.extractLsb' 1 4).toNat) =
      some (sboxOut (j.val + 1) g).toNat := by
  obtain ⟨hrows, hcols⟩ := sboxTable_shape j
  have hcol : (g.extractLsb' 1 4).toNat < 16 := (g.extractLsb' 1 4).isLt
  have hrow : 2 * (g.getLsbD 5).toNat + (g.getLsbD 0).toNat < (sboxTable (j.val + 1)).length := by
    have h5 := Bool.toNat_lt (g.getLsbD 5)
    have h0 := Bool.toNat_lt (g.getLsbD 0)
    omega
  unfold sboxOut
  generalize (g.extractLsb' 1 4).toNat = c at *
  generalize 2 * (g.getLsbD 5).toNat + (g.getLsbD 0).toNat = r at *
  have hlen : (sboxTable (j.val + 1))[r].length = 16 := hcols _ (List.getElem_mem hrow)
  show ((sboxTable (j.val + 1)).flatten.map BitVec.toNat)[16 * r + c]? = _
  rw [List.getElem?_map, getElem?_flatten_of_rows hcols r hcol, List.getElem?_eq_getElem hrow, Option.bind_some,
    List.getElem?_eq_getElem (hlen.symm ▸ hcol), List.getD_eq_getElem _ _ hrow, List.getD_eq_getElem _ _ (hlen.symm ▸ hcol)]
  rfl

/-- Nibble `j` of `SL(x)`, counted from the left, is the lookup of group `j` (rule R143). -/
theorem feistelSL_nibble (x : BitVec 48) (j : Fin 8) :
    (feistelSL x).extractLsb' (28 - 4 * j.val) 4 = sboxOut (j.val + 1) (x.extractLsb' (42 - 6 * j.val) 6) := by
  unfold feistelSL
  fin_cases j <;>
    simp (disch := decide) only [extract_nibble_above, extract_nibble_last, BitVec.extractLsb'_eq_self, Nat.reduceMul,
      Nat.reduceSub] <;>
    rfl

/-- Settles O44: a 6-bit group names a row and a column of its box. -/
theorem feistelBoxLookupsAreInRange : Obligations.FeistelBoxLookupsAreInRange := by
  refine ⟨tabRead_sboxOut, ?_, fun _ _ => rfl, mem_row_of_sboxTable⟩
  rintro x j g rfl
  rw [feistelSL_nibble, tabRead_sboxOut]

end Sys2Proof.Machine
end

section
/-! The Feistel commands by their micro-steps (rules R141, R147, R148, R150, R151, R261). -/

namespace Sys2Proof.Machine

/-- Settles O45: `fksAfter` is the state after each round. -/
theorem fksMicroStepsComposeToTheCommand : Obligations.FksMicroStepsComposeToTheCommand := by
  intro s t hl h
  have hstart : start .fks s = fksAfter s 0 := startFks_pass s hl
  obtain rfl := Host.Outcome.next.inj (h.symm.trans (exec_fks_pass hl))
  obtain ⟨hsteps, hrounds⟩ :=
    (refines_of_rounds (fksAfter s) (fun _ => ⟨rfl, nofun⟩) (microStep_fksAfter s) (microStep_fksAfter_last s)).succeeds rfl
  rw [hstart]
  exact ⟨hsteps, fun n hn => (hrounds n hn).1⟩

/-- Settles O46: a transform whose checks pass succeeds, so that its micro-steps lead to what the whole command leaves. -/
theorem feistelMicroStepsComposeToTheTransform : Obligations.FeistelMicroStepsComposeToTheTransform := by
  intro s t i hi hb hv hd h
  have hcount : stepCount i - 1 = 16 := by rcases hi with rfl | rfl <;> rfl
  have herr : t.err = 0 := by
    rcases hi with rfl | rfl
    · rw [Host.Outcome.next.inj (h.symm.trans (exec_fenc_pass hb hv)), State.succeed_err]
    · rw [Host.Outcome.next.inj (h.symm.trans (exec_fdec_pass hb hv)), State.succeed_err]
  obtain ⟨hsteps, hrounds⟩ := (start_refines_exec hd h).succeeds herr
  rw [hcount] at hsteps hrounds
  exact ⟨hsteps, fun n hn => (hrounds n hn).1⟩

end Sys2Proof.Machine
end

section
/-! The layers of the SPN cipher and their inverses, the inverse second (rules R171, R173, R190 to R192). -/

namespace Sys2Proof.Machine

/-! ### The column mix -/

/-- The multiplier is linear in its right operand (rule R213). -/
theorem gmul_xor (c a b : Byte) : gmul c (a ^^^ b) = gmul c a ^^^ gmul c b :=
  gmulStep_foldl_xor_right [0, 1, 2, 3, 4, 5, 6, 7] a b 0 0 c

/-- Tripling is linear over exclusive or (rule R212). -/
theorem mulBy3_xor (a b : Byte) : mulBy3 (a ^^^ b) = mulBy3 a ^^^ mulBy3 b := by
  unfold mulBy3
  rw [mulBy2_xor]
  ac_rfl

/-- Two linear functions of bytes that agree on the eight single bits are equal. -/
theorem eq_of_linear {f g : Byte → Byte} (hf : ∀ a b, f (a ^^^ b) = f a ^^^ f b) (hg : ∀ a b, g (a ^^^ b) = g a ^^^ g b)
    (h0 : f 0 = g 0) (hbits : ∀ n < 8, f (BitVec.twoPow 8 n) = g (BitVec.twoPow 8 n)) (x : Byte) : f x = g x :=
  byte_xor_induction (P := fun x => f x = g x) h0 hbits (fun a b ha hb => by rw [hf, hg, ha, hb]) x

/-- What a byte adds to an output byte of a column mix followed by its inverse: a row of the inverse mix times the byte's column of
the mix, which doubles it once, triples it once and keeps it twice (rules R173, R192). -/
def mixEntry (c0 c1 c2 c3 x : Byte) : Byte := gmul c0 (mulBy2 x) ^^^ gmul c1 x ^^^ gmul c2 x ^^^ gmul c3 (mulBy3 x)

theorem mixEntry_xor (c0 c1 c2 c3 x y : Byte) :
    mixEntry c0 c1 c2 c3 (x ^^^ y) = mixEntry c0 c1 c2 c3 x ^^^ mixEntry c0 c1 c2 c3 y := by
  simp only [mixEntry, gmul_xor, mulBy2_xor, mulBy3_xor]
  ac_rfl

/-- On the diagonal the product of the two mixes is the identity. -/
theorem mixEntry_diagonal (x : Byte) : mixEntry 14 11 13 9 x = x :=
  eq_of_linear (g := id) (mixEntry_xor 14 11 13 9) (fun _ _ => rfl) (by decide) (by decide) x

/-- An entry is zero if it is so on the eight single bits. -/
theorem mixEntry_eq_zero {c0 c1 c2 c3 : Byte} (h0 : mixEntry c0 c1 c2 c3 0 = 0)
    (hbits : ∀ n < 8, mixEntry c0 c1 c2 c3 (BitVec.twoPow 8 n) = 0) (x : Byte) : mixEntry c0 c1 c2 c3 x = 0 :=
  eq_of_linear (g := fun _ => 0) (mixEntry_xor c0 c1 c2 c3) (fun _ _ => rfl) h0 hbits x

/-- In the three places off the diagonal the product of the two mixes is zero. -/
theorem mixEntry_off_diagonal (x : Byte) : mixEntry 11 13 9 14 x = 0 ∧ mixEntry 13 9 14 11 x = 0 ∧ mixEntry 9 14 11 13 x = 0 :=
  ⟨mixEntry_eq_zero (by decide) (by decide) x, mixEntry_eq_zero (by decide) (by decide) x,
    mixEntry_eq_zero (by decide) (by decide) x⟩

/-- An output byte of the inverse mix, taken of the four output bytes of the mix, is the input byte. -/
theorem invMix_mix (x y z v : Byte) :
    gmul 14 (mulBy2 x ^^^ mulBy3 y ^^^ z ^^^ v) ^^^ gmul 11 (mulBy2 y ^^^ mulBy3 z ^^^ v ^^^ x) ^^^
      gmul 13 (mulBy2 z ^^^ mulBy3 v ^^^ x ^^^ y) ^^^ gmul 9 (mulBy2 v ^^^ mulBy3 x ^^^ y ^^^ z) = x := by
  obtain ⟨hy, -, -⟩ := mixEntry_off_diagonal y
  obtain ⟨-, hz, -⟩ := mixEntry_off_diagonal z
  obtain ⟨-, -, hv⟩ := mixEntry_off_diagonal v
  calc _ = mixEntry 14 11 13 9 x ^^^ mixEntry 11 13 9 14 y ^^^ mixEntry 13 9 14 11 z ^^^ mixEntry 9 14 11 13 v := by
        simp only [mixEntry, gmul_xor]
        ac_rfl
    _ = x ^^^ 0 ^^^ 0 ^^^ 0 := by rw [mixEntry_diagonal, hy, hz, hv]
    _ = x := by simp only [BitVec.ofNat_eq_ofNat, BitVec.xor_zero]

/-- Row `r` of the inverse mix, its coefficients from the diagonal on: 14, 11, 13, 9 (rule R192). -/
theorem imcByte_eq (a : Nat → Byte) {r : Nat} (h : r < 4) :
    imcByte a r = gmul 14 (a r) ^^^ gmul 11 (a ((r + 1) % 4)) ^^^ gmul 13 (a ((r + 2) % 4)) ^^^ gmul 9 (a ((r + 3) % 4)) := by
  interval_cases r
  · rfl
  all_goals
    simp only [imcByte, tabINVMIX, Nat.reduceSub, Nat.reduceMod, Nat.reduceAdd, List.getD_cons_zero, List.getD_cons_succ]
    ac_rfl

/-- The inverse mix of a mixed column is the column. -/
theorem imcByte_mcByte (a : Nat → Byte) {r : Nat} (h : r < 4) : imcByte (mcByte a) r = a r := by
  rw [imcByte_eq _ h]
  interval_cases r <;> exact invMix_mix _ _ _ _

/-- The inverse mix reads the four bytes of its column only. -/
theorem imcByte_congr {a b : Nat → Byte} (h : ∀ r < 4, a r = b r) (r : Nat) : imcByte a r = imcByte b r := by
  rw [imcByte, imcByte, h 0 (by decide), h 1 (by decide), h 2 (by decide), h 3 (by decide)]

/-- Byte `(r, c)` of a mixed state is byte `r` of its mixed column. -/
theorem stAt_spnMC (s : Block128) {r c : Nat} (hr : r < 4) (hc : c < 4) : stAt (spnMC s) r c = mcByte (fun r => stAt s r c) r := by
  rw [spnMC, stAt_ofBytes _ r c hr hc, show (r + 4 * c) / 4 = c by omega, show (r + 4 * c) % 4 = r by omega]

theorem spnIMC_spnMC (s : Block128) : spnIMC (spnMC s) = s := by
  refine eq_of_byteAt fun k hk => ?_
  have hr : k % 4 < 4 := Nat.mod_lt _ (by decide)
  have hc : k / 4 < 4 := by omega
  calc byteAt (spnIMC (spnMC s)) k = imcByte (fun r => stAt (spnMC s) r (k / 4)) (k % 4) := byteAt_ofBytes _ k hk
    _ = imcByte (mcByte fun r => stAt s r (k / 4)) (k % 4) := imcByte_congr (fun r hr => stAt_spnMC s hr hc) _
    _ = byteAt s (k % 4 + 4 * (k / 4)) := imcByte_mcByte _ hr
    _ = byteAt s k := by rw [Nat.mod_add_div]

/-! ### The other layers -/

/-- `INVSBOX` inverts `SBOX` (rule R171). -/
theorem invSboxByte_sboxByte (x : Byte) : invSboxByte (sboxByte x) = x := by
  revert x; decide +kernel

theorem spnISB_spnSB (s : Block128) : spnISB (spnSB s) = s := by
  refine eq_of_byteAt fun k hk => ?_
  rw [spnISB, byteAt_ofBytes _ k hk, spnSB, byteAt_ofBytes _ k hk, invSboxByte_sboxByte]

/-- Row `r` shifted left by `r` places (rule R186). -/
theorem stAt_spnSR (s : Block128) {r c : Nat} (hr : r < 4) (hc : c < 4) : stAt (spnSR s) r c = stAt s r ((c + r) % 4) := by
  rw [spnSR, stAt_ofBytes _ r c hr hc, show (r + 4 * c) / 4 = c by omega, show (r + 4 * c) % 4 = r by omega]

theorem spnISR_spnSR (s : Block128) : spnISR (spnSR s) = s := by
  refine eq_of_byteAt fun k hk => ?_
  have hback : ((k / 4 + 4 - k % 4) % 4 + k % 4) % 4 = k / 4 := by omega
  calc byteAt (spnISR (spnSR s)) k = stAt (spnSR s) (k % 4) ((k / 4 + 4 - k % 4) % 4) := byteAt_ofBytes _ k hk
    _ = stAt s (k % 4) (k / 4) := by rw [stAt_spnSR s (Nat.mod_lt _ (by decide)) (Nat.mod_lt _ (by decide)), hback]
    _ = byteAt s k := by rw [stAt, Nat.mod_add_div]

/-- Adding a round key twice changes nothing. -/
theorem spnARK_spnARK (w : WBank) (s : Block128) (r : Nat) : spnARK w (spnARK w s r) r = s := by
  rw [spnARK, spnARK, BitVec.xor_assoc, BitVec.xor_self, BitVec.xor_zero]

end Sys2Proof.Machine
end

section
/-! Decryption after encryption, for the SPN transforms and at the command interface of both ciphers (rules R149 (a), (b), R195 (a),
(b)). -/

namespace Sys2Proof.Machine

/-- A reverse round undoes a forward round, but for the next round's substitution and row shift, which it takes off first, and its
own, which the next reverse round takes off (rules R188, R193). -/
theorem sdRound_seRound (w : WBank) (s : Block128) (r : Nat) : sdRound w (spnSR (spnSB (seRound w s r))) r = spnSR (spnSB s) := by
  rw [sdRound, spnISR_spnSR, spnISB_spnSB, seRound, spnARK_spnARK, spnIMC_spnMC]

/-- The reverse rounds, in the opposite order, undo the forward rounds in the same way. -/
theorem sdRound_foldl_reverse (w : WBank) (rs : List Nat) (s : Block128) :
    rs.reverse.foldl (sdRound w) (spnSR (spnSB (rs.foldl (seRound w) s))) = spnSR (spnSB s) := by
  induction rs generalizing s with
  | nil => rfl
  | cons r rs ih =>
    rw [List.reverse_cons, List.foldl_append, List.foldl_cons (b := s), ih, List.foldl_cons, List.foldl_nil, sdRound_seRound]

/-- The inverse transform undoes the forward transform (rule R195 (a)). -/
theorem spnSD_spnSE (b : Block128) (w : WBank) : spnSD (spnSE b w) w = b := by
  have hrounds := sdRound_foldl_reverse w [1, 2, 3, 4, 5, 6, 7, 8, 9] (spnARK w b 0)
  rw [spnSD, spnSE, seLast, spnARK_spnARK, show [9, 8, 7, 6, 5, 4, 3, 2, 1] = [1, 2, 3, 4, 5, 6, 7, 8, 9].reverse from rfl, hrounds,
    sdLast, spnISR_spnSR, spnISB_spnSB, spnARK_spnARK]

/-- Of the 128-bit result of a Feistel transform a Feistel command takes the 64 bits of the block (rules R28, R29, R66). -/
theorem feistelOperand_feistelResult (r : Block64) : feistelOperand (feistelResult r) = r :=
  (BitVec.extractLsb'_setWidth_of_le (by decide)).trans BitVec.extractLsb'_eq_self

/-- The bank in reverse order, as a list (rule R148). -/
theorem toList_frkReversed (ks : FrkBank) : (frkReversed ks).toList = ks.toList.reverse :=
  toList_eq_reverse (getElem_frkReversed ks)

/-- Settles O39: each command installs its transform's result, and the second transform undoes the first. -/
theorem decryptCommandUndoesEncryptCommand : Obligations.DecryptCommandUndoesEncryptCommand := by
  constructor <;> intro s t u hb hv ht hu
  · obtain rfl := Host.Outcome.next.inj (ht.symm.trans (exec_fenc_pass hb hv))
    obtain rfl := Host.Outcome.next.inj (hu.symm.trans (exec_fdec_pass hb hv))
    refine ⟨congrArg RegVal.w128 ?_, rfl⟩
    show feistelResult (feistelFX (feistelOperand (feistelResult _)) (frkReversed s.frk)) = _
    rw [feistelOperand_feistelResult, feistelFX_of_reverse _ (toList_frkReversed s.frk)]
    rfl
  · obtain rfl := Host.Outcome.next.inj (ht.symm.trans (exec_senc_pass hb hv))
    obtain rfl := Host.Outcome.next.inj (hu.symm.trans (exec_sdec_pass hb hv))
    exact ⟨congrArg RegVal.w128 (spnSD_spnSE s.din s.w), rfl⟩

end Sys2Proof.Machine
end

section
/-! The layers of the SPN cipher and their inverses, the inverse first (rules R171, R173, R190 to R192). -/

namespace Sys2Proof.Machine

/-- There are finitely many words of one width, so a function on them that undoes another is undone by it. -/
theorem rightInverse_of_leftInverse {n : Nat} {f g : BitVec n → BitVec n} (h : Function.LeftInverse g f) :
    Function.RightInverse g f :=
  have : Finite (BitVec n) := Finite.of_injective BitVec.toFin fun _ _ => BitVec.eq_of_toFin_eq
  h.rightInverse_of_surjective (Finite.surjective_of_injective h.injective)

/-- `SBOX` inverts `INVSBOX` (rule R171). -/
theorem sboxByte_invSboxByte (x : Byte) : sboxByte (invSboxByte x) = x :=
  rightInverse_of_leftInverse invSboxByte_sboxByte x

/-- The inverse row shift moves bytes and the inverse substitution changes each where it stands (rule R191). -/
theorem spnISR_spnISB (s : Block128) : spnISR (spnISB s) = spnISB (spnISR s) := by
  refine eq_of_byteAt fun k hk => ?_
  have hrow : k % 4 < 4 := Nat.mod_lt _ (by decide)
  have hcol : (k / 4 + 4 - k % 4) % 4 < 4 := Nat.mod_lt _ (by decide)
  calc byteAt (spnISR (spnISB s)) k
      = stAt (spnISB s) (k % 4) ((k / 4 + 4 - k % 4) % 4) := byteAt_ofBytes _ k hk
    _ = invSboxByte (stAt s (k % 4) ((k / 4 + 4 - k % 4) % 4)) := stAt_ofBytes _ _ _ hrow hcol
    _ = byteAt (spnISB (spnISR s)) k := by rw [spnISB, byteAt_ofBytes _ k hk, spnISR, byteAt_ofBytes _ k hk]

/-- Settles O37: each inverse layer undoes its layer, so it is undone by it too. -/
theorem spnLayersAndInversesCancel : Obligations.SpnLayersAndInversesCancel := fun s =>
  ⟨spnISB_spnSB s, rightInverse_of_leftInverse spnISB_spnSB s, spnISR_spnSR s, rightInverse_of_leftInverse spnISR_spnSR s,
    spnIMC_spnMC s, rightInverse_of_leftInverse spnIMC_spnMC s, spnISR_spnISB s⟩

end Sys2Proof.Machine
end

section
/-! The substitution box as the affine map of the field's inverse (rules R170, R175, R213, R214). -/

namespace Sys2Proof.Machine

/-! ### The multiplier -/

/-- The multiplier is linear in its left operand (rule R213). -/
theorem xor_gmul (a b c : Byte) : gmul (a ^^^ b) c = gmul a c ^^^ gmul b c :=
  gmulStep_foldl_xor_left [0, 1, 2, 3, 4, 5, 6, 7] c 0 0 a b

/-- A linear function of bytes is 0 at 0. -/
theorem eq_zero_of_linear {f : Byte → Byte} (hf : ∀ a b, f (a ^^^ b) = f a ^^^ f b) : f 0 = 0 := by
  simpa using hf 0 0

/-- Two linear functions of bytes that agree on the eight single bits are equal; at 0 they agree by linearity. -/
theorem eq_of_linear_of_bits {f g : Byte → Byte} (hf : ∀ a b, f (a ^^^ b) = f a ^^^ f b) (hg : ∀ a b, g (a ^^^ b) = g a ^^^ g b)
    (hbits : ∀ n < 8, f (BitVec.twoPow 8 n) = g (BitVec.twoPow 8 n)) (x : Byte) : f x = g x :=
  eq_of_linear hf hg ((eq_zero_of_linear hf).trans (eq_zero_of_linear hg).symm) hbits x

theorem gmul_zero (a : Byte) : gmul a 0 = 0 := eq_zero_of_linear (gmul_xor a)

theorem gmul_one (a : Byte) : gmul a 1 = a :=
  eq_of_linear_of_bits (f := (gmul · 1)) (g := id) (xor_gmul · · 1) (fun _ _ => rfl) (by decide) a

theorem one_gmul (a : Byte) : gmul 1 a = a :=
  eq_of_linear_of_bits (g := id) (gmul_xor 1) (fun _ _ => rfl) (by decide) a

/-- The multiplication is associative on single bits. -/
theorem gmul_assoc_twoPow : ∀ i < 8, ∀ j < 8, ∀ k < 8,
    gmul (gmul (BitVec.twoPow 8 i) (BitVec.twoPow 8 j)) (BitVec.twoPow 8 k) =
      gmul (BitVec.twoPow 8 i) (gmul (BitVec.twoPow 8 j) (BitVec.twoPow 8 k)) := by
  decide +kernel

/-- The multiplication is associative: both products are linear in each factor, and they agree on single bits (rule R214 (b)). -/
theorem gmul_assoc (a b c : Byte) : gmul (gmul a b) c = gmul a (gmul b c) := by
  refine eq_of_linear_of_bits (f := fun a => gmul (gmul a b) c) (g := fun a => gmul a (gmul b c))
    (fun _ _ => by simp only [xor_gmul]) (fun _ _ => xor_gmul _ _ _) (fun i hi => ?_) a
  refine eq_of_linear_of_bits (f := fun b => gmul (gmul _ b) c) (g := fun b => gmul _ (gmul b c))
    (fun _ _ => by simp only [gmul_xor, xor_gmul]) (fun _ _ => by simp only [gmul_xor, xor_gmul]) (fun j hj => ?_) b
  exact eq_of_linear_of_bits (g := fun c => gmul _ (gmul _ c)) (gmul_xor _) (fun _ _ => by simp only [gmul_xor])
    (gmul_assoc_twoPow i hi j hj) c

/-! ### The substitution box -/

/-- The affine map of rule R175. -/
def sboxAffine (y : Byte) : Byte := y ^^^ rotl y 1 ^^^ rotl y 2 ^^^ rotl y 3 ^^^ rotl y 4 ^^^ 0x63

/-- `INVSBOX` takes the affine map of a non-zero byte to an inverse of that byte (rule R175). -/
theorem gmul_invSboxByte_sboxAffine : ∀ y : Byte, y ≠ 0 → gmul y (invSboxByte (sboxAffine y)) = 1 := by
  decide +kernel

/-- A left inverse of `y` and the right inverse that `INVSBOX` gives are the same byte, by associativity. -/
theorem eq_invSboxByte_sboxAffine {x y : Byte} (h : gmul x y = 1) : x = invSboxByte (sboxAffine y) := by
  have hy : y ≠ 0 := by
    rintro rfl
    rw [gmul_zero] at h
    exact absurd h (by decide)
  calc x = gmul x (gmul y (invSboxByte (sboxAffine y))) := by rw [gmul_invSboxByte_sboxAffine y hy, gmul_one]
    _ = gmul 1 (invSboxByte (sboxAffine y)) := by rw [← gmul_assoc, h]
    _ = invSboxByte (sboxAffine y) := one_gmul _

/-- `SBOX` has no fixed and no opposite fixed point (rule R170). -/
theorem sboxByte_ne : ∀ x : Byte, sboxByte x ≠ x ∧ sboxByte x ≠ x ^^^ 0xFF := by decide +kernel

/-- Settles O42: `INVSBOX` takes the affine map of `y` to `y`'s inverse `x`, so `SBOX` takes `x` to that affine map. -/
theorem substitutionBoxIsAffineOfInverse : Obligations.SubstitutionBoxIsAffineOfInverse := by
  refine ⟨fun x y h => ?_, sboxByte_ne⟩
  show sboxByte x = sboxAffine y
  rcases h with h | ⟨rfl, rfl⟩
  · rw [eq_invSboxByte_sboxAffine h, sboxByte_invSboxByte]
  · rfl

end Sys2Proof.Machine
end

section
/-! Byte lookups in the substitution boxes (rules R63, R170, R171, R176). -/

namespace Sys2Proof.Machine

/-- A byte is its upper nibble and its lower nibble. -/
theorem nibbles_toNat (x : Byte) : 16 * (x.extractLsb' 4 4).toNat + (x.extractLsb' 0 4).toNat = x.toNat := by
  have hx : x.toNat < 256 := x.isLt
  rw [BitVec.extractLsb'_toNat, BitVec.extractLsb'_toNat, Nat.shiftRight_eq_div_pow, Nat.shiftRight_zero]
  omega

/-- A box of sixteen rows of sixteen, laid out row by row, holds at place `x` the entry of row `x[7:4]`, column `x[3:0]`. -/
theorem getElem?_box {box : List (List Byte)} (hrows : box.length = 16) (hcols : ∀ row ∈ box, row.length = 16) (x : Byte) :
    (box.flatten.map BitVec.toNat)[x.toNat]? =
      some ((box.getD (x.extractLsb' 4 4).toNat []).getD (x.extractLsb' 0 4).toNat 0).toNat := by
  have hrow : (x.extractLsb' 4 4).toNat < box.length := hrows.symm ▸ (x.extractLsb' 4 4).isLt
  have hlen : box[(x.extractLsb' 4 4).toNat].length = 16 := hcols _ (List.getElem_mem hrow)
  have hcol : (x.extractLsb' 0 4).toNat < box[(x.extractLsb' 4 4).toNat].length := hlen.symm ▸ (x.extractLsb' 0 4).isLt
  rw [List.getElem?_map, ← nibbles_toNat x, getElem?_flatten_of_rows hcols _ (hlen ▸ hcol), List.getElem?_eq_getElem hrow,
    Option.bind_some, List.getElem?_eq_getElem hcol, List.getD_eq_getElem _ _ hrow, List.getD_eq_getElem _ _ hcol]
  rfl

theorem tabRead_sboxByte (x : Byte) : tabRead .sbox x.toNat = some (sboxByte x).toNat :=
  getElem?_box (box := tabSBOX) rfl (by decide) x

theorem tabRead_invSboxByte (x : Byte) : tabRead .invsbox x.toNat = some (invSboxByte x).toNat :=
  getElem?_box (box := tabINVSBOX) rfl (by decide) x

end Sys2Proof.Machine
end

section
/-! The layers of the SPN cipher, byte by byte (rules R173, R185 to R187, R190 to R192, R211, R212). -/

namespace Sys2Proof.Machine

/-- Doubling is the product by 2 (rules R211, R213). -/
theorem two_gmul (a : Byte) : gmul 2 a = mulBy2 a := eq_of_linear_of_bits (gmul_xor 2) mulBy2_xor (by decide) a

/-- Tripling is the product by 3 (rules R212, R213). -/
theorem three_gmul (a : Byte) : gmul 3 a = mulBy3 a := eq_of_linear_of_bits (gmul_xor 3) mulBy3_xor (by decide) a

/-- The column mix through the matrix of rule R173: coefficient `MIX[(k - r) mod 4]` for byte `k`. -/
theorem mcByte_eq_matrix (a : Nat → Byte) {r : Nat} (h : r < 4) :
    mcByte a r = gmul (tabMIX.getD ((4 - r) % 4) 0) (a 0) ^^^ gmul (tabMIX.getD ((5 - r) % 4) 0) (a 1) ^^^
      gmul (tabMIX.getD ((6 - r) % 4) 0) (a 2) ^^^ gmul (tabMIX.getD ((7 - r) % 4) 0) (a 3) := by
  rw [mcByte, ← two_gmul, ← three_gmul, ← one_gmul (a ((r + 2) % 4)), ← one_gmul (a ((r + 3) % 4))]
  interval_cases r
  · rfl
  all_goals
    simp only [tabMIX, Nat.reduceSub, Nat.reduceMod, Nat.reduceAdd, List.getD_cons_zero, List.getD_cons_succ]
    ac_rfl

/-- Settles O22: a layer's byte is its formula's, and the matrix's coefficients are 2, 3, 1, 1 from the diagonal on. -/
theorem forwardLayersByteByByte : Obligations.ForwardLayersByteByByte := by
  refine fun s => ⟨fun k hk => ?_, fun r c => stAt_spnSR s, fun r c => stAt_spnMC s, fun r c hr hc => ?_⟩
  · rw [spnSB, byteAt_ofBytes _ k hk, tabRead_sboxByte]
  · rw [stAt_spnMC s hr hc, mcByte_eq_matrix _ hr]

/-- Row `r` shifted right by `r` places (rule R191). -/
theorem stAt_spnISR (s : Block128) {r c : Nat} (hr : r < 4) (hc : c < 4) :
    stAt (spnISR s) r c = stAt s r ((c + 4 - r) % 4) := by
  rw [spnISR, stAt_ofBytes _ r c hr hc, show (r + 4 * c) / 4 = c by omega, show (r + 4 * c) % 4 = r by omega]

/-- Byte `(r, c)` of an inversely mixed state is byte `r` of its inversely mixed column (rule R192). -/
theorem stAt_spnIMC (s : Block128) {r c : Nat} (hr : r < 4) (hc : c < 4) :
    stAt (spnIMC s) r c = imcByte (fun r => stAt s r c) r := by
  rw [spnIMC, stAt_ofBytes _ r c hr hc, show (r + 4 * c) / 4 = c by omega, show (r + 4 * c) % 4 = r by omega]

/-- Settles O23: the inverse row shift takes column `c + r` back to column `c`, and the inverse mix has 14, 11, 13, 9 from the
diagonal on. -/
theorem inverseLayersByteByByte : Obligations.InverseLayersByteByByte := by
  refine fun s => ⟨fun k hk => ?_, fun r c hr hc => ?_, fun r c hr hc => ?_⟩
  · rw [spnISB, byteAt_ofBytes _ k hk, tabRead_invSboxByte]
  · have hback : ((c + r) % 4 + 4 - r) % 4 = c := by omega
    rw [stAt_spnISR s hr (Nat.mod_lt _ (by decide)), hback]
  · rw [stAt_spnIMC s hr hc, imcByte_eq _ hr]

end Sys2Proof.Machine
end

section
/-! The SPN transforms (rules R31, R188, R189, R193, R194, R195 (a)): round by round, each other's inverse, and at the command
interface. -/

namespace Sys2Proof.Machine

/-- Word `i` of a bank is its entry. -/
theorem wAt_eq_getElem (w : WBank) {i : Nat} (h : i < 44) : wAt w i = w[i] := by
  rw [wAt, List.getD_eq_getElem _ _ (by rwa [Vector.length_toList]), Vector.getElem_toList]

/-- Round key `r` is the words `4r` to `4r + 3` of the bank (rule R31). -/
theorem srk_eq_words (w : WBank) {r : Nat} (h : r < 11) :
    srk w r = w[4 * r] ++ w[4 * r + 1] ++ w[4 * r + 2] ++ w[4 * r + 3] := by
  rw [srk, wAt_eq_getElem w, wAt_eq_getElem w, wAt_eq_getElem w, wAt_eq_getElem w]

/-- The state of the forward transform after round `n` (rule R188). -/
def seState (b : Block128) (w : WBank) (n : Nat) : Block128 := (List.range' 1 n).foldl (seRound w) (spnARK w b 0)

theorem seState_succ (b : Block128) (w : WBank) (n : Nat) : seState b w (n + 1) = seRound w (seState b w n) (n + 1) := by
  rw [seState, List.range'_concat, List.foldl_append, List.foldl_cons, List.foldl_nil, Nat.one_mul, Nat.add_comm 1, seState]

theorem spnSE_eq_last (b : Block128) (w : WBank) : spnSE b w = seLast w (seState b w 9) := rfl

/-- The state of the inverse transform after the rounds 9 down to `r` (rule R193). -/
def sdState (b : Block128) (w : WBank) (r : Nat) : Block128 := (List.range' r (10 - r)).reverse.foldl (sdRound w) (spnARK w b 10)

theorem sdState_of_lt (b : Block128) (w : WBank) {r : Nat} (h : r < 10) : sdState b w r = sdRound w (sdState b w (r + 1)) r := by
  obtain ⟨n, hn⟩ : ∃ n, 10 - r = n + 1 := ⟨9 - r, by omega⟩
  rw [sdState, hn, List.range'_succ, List.reverse_cons, List.foldl_append, List.foldl_cons, List.foldl_nil, sdState,
    show 10 - (r + 1) = n by omega]

theorem spnSD_eq_last (b : Block128) (w : WBank) : spnSD b w = sdLast w (sdState b w 1) := rfl

/-- Settles O24: the round states are those of the loop, forward and in reverse. -/
theorem spnTransformsByRounds : Obligations.SpnTransformsByRounds := fun b w =>
  ⟨fun _ => srk_eq_words w, ⟨seState b w, rfl, fun r _ => seState_succ b w r, spnSE_eq_last b w⟩,
    ⟨sdState b w, rfl, fun _ _ => sdState_of_lt b w, spnSD_eq_last b w⟩⟩

/-- Settles O38: the inverse transform undoes the forward one on the finitely many blocks, so it is undone by it too. -/
theorem spnRoundTrip : Obligations.SpnRoundTrip := fun b w =>
  ⟨spnSD_spnSE b w, rightInverse_of_leftInverse (f := (spnSE · w)) (g := (spnSD · w)) (spnSD_spnSE · w) b⟩

/-- Settles O21: the command installs the transform of the block under the bank, and succeeds. -/
theorem sencAndSdecTransformTheBlock : Obligations.SencAndSdecTransformTheBlock := fun s hb hv =>
  ⟨⟨freeWork s.free, s.free + 1, exec_senc_pass hb hv⟩, ⟨freeWork s.free, s.free + 1, exec_sdec_pass hb hv⟩⟩

end Sys2Proof.Machine
end

section
/-! The key expansion (rules R31, R65, R181 to R183, R195 (c)). -/

namespace Sys2Proof.Machine

/-- Byte `j` of a substituted word is the substituted byte `j` (rule R181). -/
theorem wordByte_subWord (w : Word) {j : Nat} (h : j < 4) : wordByte (subWord w) j = sboxByte (wordByte w j) := by
  obtain ⟨h0, h1, h2, h3⟩ := wordByte_ofWordBytes (sboxByte (wordByte w 0)) (sboxByte (wordByte w 1)) (sboxByte (wordByte w 2))
    (sboxByte (wordByte w 3))
  interval_cases j
  exacts [h0, h1, h2, h3]

/-- `RotWord` is the rotation by one byte (rules R9, R181). -/
theorem rotWord_eq_rotl (w : Word) : rotWord w = rotl w 8 := by
  have hupper : wordByte w 1 ++ wordByte w 2 ++ wordByte w 3 = w.extractLsb' 0 24 :=
    (congrArg (· ++ wordByte w 3) (BitVec.extractLsb'_append_extractLsb'_eq_extractLsb' rfl)).trans
      (BitVec.extractLsb'_append_extractLsb'_eq_extractLsb' rfl)
  rw [rotWord, ofWordBytes, hupper, wordByte, rotl_eq_rotateLeft w (by decide)]
  refine BitVec.eq_of_getLsbD_eq fun i (hi : i < 32) => ?_
  rw [BitVec.getLsbD_append, BitVec.getLsbD_rotateLeft_of_le (by decide), BitVec.getLsbD_extractLsb', BitVec.getLsbD_extractLsb']
  by_cases h : i < 8
  · simp [h]
  · have hi' : i - 8 < 24 := by omega
    simp [h, hi, hi']

/-- A round constant's word is its byte followed by 24 zero bits (rule R181). -/
theorem rconWord_eq_append (j : Nat) : rconWord j = tabRCON.getD j 0 ++ (0 : BitVec 24) := by
  rw [rconWord, ofWordBytes, BitVec.append_assoc, BitVec.append_assoc]
  rfl

/-- A block is its four words (rule R65). -/
theorem wordOf_append (k : Block128) : wordOf k 0 ++ wordOf k 1 ++ wordOf k 2 ++ wordOf k 3 = k := by
  have h01 : wordOf k 0 ++ wordOf k 1 = k.extractLsb' 64 64 := BitVec.extractLsb'_append_extractLsb'_eq_extractLsb' rfl
  have h012 : k.extractLsb' 64 64 ++ wordOf k 2 = k.extractLsb' 32 96 :=
    BitVec.extractLsb'_append_extractLsb'_eq_extractLsb' rfl
  rw [h01, h012]
  exact (BitVec.extractLsb'_append_extractLsb'_eq_extractLsb' rfl).trans BitVec.extractLsb'_eq_self

theorem exec_skx_pass {s : State} (h : s.klen = 128) : exec .skx s = .next (s.installW (spnKX (spnOperand s.key))).succeed :=
  congrArg _ (keyCommand_pass h)

/-- Round key 0 of an expansion is the key (rule R195 (c)). -/
theorem srk_spnKX_zero (k : Block128) : srk (spnKX k) 0 = k := by
  rw [srk, wAt_spnKX_key k _ (by decide), wAt_spnKX_key k _ (by decide), wAt_spnKX_key k _ (by decide),
    wAt_spnKX_key k _ (by decide)]
  exact wordOf_append k

/-- Settles O20: the bank is the key's expansion, whose words from the fourth on satisfy the recurrence. -/
theorem skxWritesTheKeyExpansion : Obligations.SkxWritesTheKeyExpansion := by
  refine ⟨fun w j hj => ?_, fun s hl => ⟨spnKX s.key, freeWork s.free, s.free + 1, exec_skx_pass hl, ?_, srk_spnKX_zero _, ?_⟩⟩
  · show tabRead .sbox (wordByte w j).toNat = some (wordByte (subWord w) j).toNat
    rw [wordByte_subWord w hj, tabRead_sboxByte]
  · exact (srk_eq_words (spnKX s.key) (r := 0) (by decide)).symm.trans (srk_spnKX_zero _)
  · intro i hi h4
    simp only [← wAt_eq_getElem]
    rw [wAt_spnKX _ _ h4 hi, kxT, rotWord_eq_rotl, rconWord_eq_append]

end Sys2Proof.Machine
end

section
/-! The SPN commands by their micro-steps (rules R183, R189, R194, R196 to R198, R261). -/

namespace Sys2Proof.Machine

/-- The rounds of a command that succeeds compose to what the whole command leaves, and the engine is busy before each. -/
theorem Refines.composes {m : Nat} {u t : State} (h : Refines m u t) (he : t.err = 0) :
    microSteps m u = t ∧ ∀ n, n < m → (microSteps n u).busy = true := by
  obtain ⟨hsteps, hrounds⟩ := h.succeeds he
  exact ⟨hsteps, fun n hn => (hrounds n hn).1⟩

/-- Settles O47: `skxAfter` is the state after each word. -/
theorem skxMicroStepsComposeToTheCommand : Obligations.SkxMicroStepsComposeToTheCommand := by
  intro s t hl h
  obtain rfl := Host.Outcome.next.inj (h.symm.trans (exec_skx_pass hl))
  rw [show start .skx s = skxAfter s 0 from startSkx_pass s hl]
  exact (refines_of_rounds (skxAfter s) (fun _ => ⟨rfl, nofun⟩) (microStep_skxAfter s) (microStep_skxAfter_last s)).composes rfl

/-- Settles O48: `sencAfter` and `sdecAfter` are the states after each round. -/
theorem spnMicroStepsComposeToTheTransform : Obligations.SpnMicroStepsComposeToTheTransform := by
  rintro s t i (rfl | rfl) hb hv h
  · obtain rfl := Host.Outcome.next.inj (h.symm.trans (exec_senc_pass hb hv))
    rw [show start .senc s = sencAfter s.clearDv 0 from startSenc_pass s hb hv]
    exact (refines_of_rounds (sencAfter s.clearDv) (fun _ => ⟨rfl, nofun⟩) (microStep_sencAfter _)
      (microStep_sencAfter_last _)).composes rfl
  · obtain rfl := Host.Outcome.next.inj (h.symm.trans (exec_sdec_pass hb hv))
    rw [show start .sdec s = sdecAfter s.clearDv 0 from startSdec_pass s hb hv]
    exact (refines_of_rounds (sdecAfter s.clearDv) (fun _ => ⟨rfl, nofun⟩) (microStep_sdecAfter _)
      (microStep_sdecAfter_last _)).composes rfl

end Sys2Proof.Machine
end

section
/-! The laws of the multiplier (rules R210 to R214). -/

namespace Sys2Proof.Machine

/-- The multiplication is commutative on single bits. -/
theorem gmul_comm_twoPow : ∀ i < 8, ∀ j < 8,
    gmul (BitVec.twoPow 8 i) (BitVec.twoPow 8 j) = gmul (BitVec.twoPow 8 j) (BitVec.twoPow 8 i) := by
  decide

/-- The multiplication is commutative: both products are linear in each factor, and they agree on single bits (rule R214 (b)). -/
theorem gmul_comm (a b : Byte) : gmul a b = gmul b a := by
  refine eq_of_linear_of_bits (f := (gmul · b)) (xor_gmul · · b) (gmul_xor b) (fun i hi => ?_) a
  exact eq_of_linear_of_bits (g := (gmul · _)) (gmul_xor _) (xor_gmul · · _) (gmul_comm_twoPow i hi) b

/-- The product by `0x8D`, the inverse of 2, undoes doubling (rule R214 (c), (d)). -/
theorem gmul_mulBy2 (a : Byte) : gmul 0x8D (mulBy2 a) = a := by
  have hinv : gmul 0x8D 2 = 1 := by decide
  calc gmul 0x8D (mulBy2 a) = gmul (gmul 0x8D 2) a := by rw [← two_gmul, gmul_assoc]
    _ = a := by rw [hinv, one_gmul]

/-- Settles O40: commutativity and the products by 2 and 3 come from single bits by linearity; doubling is injective because
the product by `0x8D` undoes it. -/
theorem fieldMultiplicationLaws : Obligations.FieldMultiplicationLaws :=
  ⟨gmul_comm, gmul_xor, fun a => ⟨gmul_one a, gmul_zero a, two_gmul a, three_gmul a⟩,
    fun _ _ h => Function.LeftInverse.injective gmul_mulBy2 h⟩

/-- Settles O41: the inverse of `a` is what `INVSBOX` holds at the affine map of `a`; a right inverse is a left inverse, and a
left inverse can be no other byte. -/
theorem fieldMultiplicationAssociativeWithInverses : Obligations.FieldMultiplicationAssociativeWithInverses :=
  ⟨gmul_assoc, fun a ha => ⟨invSboxByte (sboxAffine a), gmul_invSboxByte_sboxAffine a ha,
    fun c hc => eq_invSboxByte_sboxAffine ((gmul_comm c a).trans hc)⟩⟩

end Sys2Proof.Machine
end

section
/-! Exceptions (rules R223 to R231): failed validations, illegal words, and the fatal state, which no run from a consistent state
reaches. -/

namespace Sys2Proof.Machine

section
variable {s : State}

/-! ### An index out of range -/

/-- An index that is 0 or above `n` is none of 1 to `n`. -/
theorem rnd_not_mem {x : BitVec 6} {n : Nat} (h : x = 0 ∨ n < x.toNat) : ¬ (1 ≤ x.toNat ∧ x.toNat ≤ n) := by
  rcases h with rfl | h
  · simp
  · omega

/-- FKS has the rounds 1 to 16 (rules R63, R150, R225). -/
theorem stepFks_outOfRange (h : ¬ (1 ≤ s.rnd.toNat ∧ s.rnd.toNat ≤ 16)) : stepFks s = s.raiseFatal := by
  unfold stepFks
  rw [tabRead_shift_eq_none h]

/-- FENC and FDEC have the rounds 1 to 16: outside them, in both directions, the bank has no entry (rules R30, R151, R225). -/
theorem stepFx_outOfRange (h : ¬ (1 ≤ s.rnd.toNat ∧ s.rnd.toNat ≤ 16)) : stepFx s = s.raiseFatal := by
  have hk : s.frkAt (if s.work.dir then 17 - s.rnd.toNat else s.rnd.toNat) = none := by
    rw [frkAt_eq_none_iff]
    split <;> omega
  unfold stepFx
  rw [hk]

/-- SKX has the words 4 to 43 (rules R196, R225). -/
theorem stepSkx_outOfRange (h : s.rnd.toNat < 4 ∨ 43 < s.rnd.toNat) : stepSkx s = s.raiseFatal :=
  if_neg (show ¬ (4 ≤ s.rnd.toNat ∧ s.rnd.toNat < 44) by omega)

/-- SENC has the rounds 1 to 10 (rules R197, R225). -/
theorem stepSenc_outOfRange (h : ¬ (1 ≤ s.rnd.toNat ∧ s.rnd.toNat ≤ 10)) : stepSenc s = s.raiseFatal := by
  unfold stepSenc
  split_ifs with h0 hlt heq
  · rfl
  · exact absurd ⟨Nat.one_le_iff_ne_zero.2 h0, hlt.le⟩ h
  · exact absurd ⟨Nat.one_le_iff_ne_zero.2 h0, heq.le⟩ h
  · rfl

/-- SDEC has the rounds 9 to 0 (rules R198, R225). -/
theorem stepSdec_outOfRange (h : 9 < s.rnd.toNat) : stepSdec s = s.raiseFatal := by
  unfold stepSdec
  rw [if_neg (by omega), if_neg (show ¬ s.rnd.toNat < 10 by omega)]

end

/-- Settles O16: in each running phase the engine's step is that phase's own, which finds its index out of range. -/
theorem outOfRangeIndexIsFatal : Obligations.OutOfRangeIndexIsFatal := by
  intro s h
  have hstep : engineStep s = .next s.raiseFatal := by
    rcases h with ⟨hp, hr⟩ | ⟨hp, hr⟩ | ⟨hp, hr⟩ | ⟨hp, hr⟩ | ⟨hp, hr⟩ <;> simp only [engineStep, microStep, hp]
    · rw [stepFks_outOfRange (rnd_not_mem hr)]
    · rw [stepFx_outOfRange (rnd_not_mem hr)]
    · rw [stepSkx_outOfRange hr]
    · rw [stepSenc_outOfRange (rnd_not_mem hr)]
    · rw [stepSdec_outOfRange hr]
  exact ⟨s.raiseFatal, freeWork s.free, s.free + 1, hstep, rfl, rfl⟩

section
variable {s t : State}

/-! ### The fatal state -/

/-- The fatal state refuses every issue, before the word is decoded (rules R228, R231). -/
theorem issue_of_fatal (h : s.fatal = true) : issue s = .next s := if_pos h

/-- In the fatal state a step that is no reset leaves the engine as it is, with another host side (rule R231). -/
theorem step_of_fatal (hp : s.phase = .fault) (hf : s.fatal = true) (ht : step s = .next t)
    (hr : s.script.head? ≠ some .reset) : ∃ h : HostSide, t = s.withHost h := by
  cases step_stepped ht with
  | reset hs => exact absurd hs hr
  | host h => exact ⟨h, rfl⟩
  | resumed hd => exact absurd (hp.symm.trans hd) nofun
  | issued _ h _ ht => exact ⟨h, Host.Outcome.next.inj (ht.symm.trans (issue_of_fatal (s := s.withHost h) hf))⟩
  | microStep hb => exact absurd hp (busy_eq_true.1 hb).2

/-- Where the engine is not busy, `WR CMD` stores the word and issues it (rules R22, R96). -/
theorem step_of_wrCmd {x : BitVec 8} {rest : List HostAction} (hb : s.busy = false) (hs : s.script = .wr 0 (.w8 x) :: rest) :
    step s = issue { s with cmd := x, script := rest } :=
  step_of_not_busy hb hs

end

/-- Settles O15: the issue is refused after the word is stored, and a step that is no reset leaves the engine as it is. -/
theorem onlyResetLeavesTheFatalState : Obligations.OnlyResetLeavesTheFatalState := by
  refine ⟨fun s x rest hp hf hs => ?_, fun s t hp hf ht hr => ?_⟩
  · rw [step_of_wrCmd (busy_eq_false.2 (.inr hp)) hs]
    exact issue_of_fatal hf
  · obtain ⟨h, rfl⟩ := step_of_fatal hp hf ht hr
    exact ⟨hp, hf, rfl, rfl, rfl, rfl, rfl, rfl, rfl⟩

section
variable {s t : State}

/-! ### Safety of a run -/

/-- What every step keeps holds at the end of every run. -/
theorem run_keeps {P : State → Prop} (hstep : ∀ s t, P s → step s = .next t → P t) (n : Nat) (h : P s)
    (ht : Host.Core.run Sys2Proof.core n s = .next t) : P t := by
  induction n generalizing s with
  | zero => exact Host.Outcome.next.inj ht ▸ h
  | succ n ih =>
    cases hs : step s with
    | next u => exact ih (hstep s u h hs) ((run_next n hs).symm.trans ht)
    | fault r => exact nomatch r
    | refused r => exact nomatch (run_refused n hs).symm.trans ht

/-- A consistent engine is not in the fatal state. -/
theorem safe_of_inv (h : s.Inv) : s.Safe := by
  obtain ⟨hf, hp, -⟩ := h
  exact ⟨hf, fun hfault => by rwa [State.PhaseOk, hfault] at hp⟩

end

/-- Settles O53: every step keeps the sequencer's invariant, which excludes the fatal state. -/
theorem noRunReachesTheFatalState : Obligations.NoRunReachesTheFatalState := fun n _ _ h ht =>
  safe_of_inv (run_keeps everyStepKeepsTheSequencerInvariant n h ht)

section
variable {s : State}

/-! ### Illegal words -/

/-- A word with reserved bits set or with the function 00 is no command's (rule R94). -/
theorem decode_ne_ok {x : BitVec 8} (h : fieldRSV x ≠ 0 ∨ fieldFN x = 0) (i : Instr) : decode x ≠ .ok i := by
  intro hd
  have legal : ∀ i, fieldRSV (encode i) = 0 ∧ fieldFN (encode i) ≠ 0 := by rintro (_ | _ | _ | _ | _ | _) <;> decide
  obtain ⟨hrsv, hfn⟩ := legal i
  rw [encode_of_decode hd] at hrsv hfn
  exact h.elim (absurd hrsv) hfn

/-- The issue of a word that is no command's raises `IllegalCommand` (rule R227). -/
theorem issue_illegal (hf : s.fatal = false) (hd : ∀ i, decode s.cmd ≠ .ok i) : issue s = .next (s.raise .illegalCommand) := by
  unfold issue
  rw [if_neg (by simp [hf])]
  split
  · rfl
  · exact absurd ‹_› (hd _)

/-- On an idle engine the issue of a word that is no command's writes `ERR` alone (rules R227, R229). -/
theorem issue_illegal_of_idle (hp : s.phase = .idle) (hr : s.rnd = 0) (hf : s.fatal = false) (hd : ∀ i, decode s.cmd ≠ .ok i) :
    issue s = .next { s with err := 5 } := by
  rw [issue_illegal hf hd, State.raise, ← hp, ← hr]
  rfl

end

/-- Settles O14: the word is stored and issued, and the issue raises `IllegalCommand`. -/
theorem illegalWordChangesOnlyCmdAndErr : Obligations.IllegalWordChangesOnlyCmdAndErr := fun s x rest hp hr hf hs hx =>
  (step_of_wrCmd (busy_eq_false.2 (.inl hp)) hs).trans
    (issue_illegal_of_idle (s := { s with cmd := x, script := rest }) hp hr hf (decode_ne_ok hx))

/-! ### Failed validations -/

/-- Settles O25: the length check of a key command, and what the command leaves where it passes. -/
theorem wrongKeyLengthFails : Obligations.WrongKeyLengthFails := fun s =>
  ⟨fun h => ⟨freeWork s.free, s.free + 1, congrArg _ (keyCommand_badLength h)⟩,
    fun h => ⟨freeWork s.free, s.free + 1, congrArg _ (keyCommand_badLength h)⟩,
    fun h => ⟨_, exec_fks_pass h, rfl⟩, fun h => ⟨_, exec_skx_pass h, rfl⟩⟩

/-- Settles O26: the length check of a transform comes first, whatever the valid bit. -/
theorem wrongBlockLengthFails : Obligations.WrongBlockLengthFails := by
  rintro s i (⟨rfl | rfl, hb⟩ | ⟨rfl | rfl, hb⟩) <;>
    exact ⟨freeWork s.free, s.free + 1, congrArg _ (transformCommand_badLength hb)⟩

/-- Settles O27: the schedule check of a transform comes second. -/
theorem missingScheduleFails : Obligations.MissingScheduleFails := by
  rintro s i (⟨rfl | rfl, hb, hv⟩ | ⟨rfl | rfl, hb, hv⟩) <;>
    exact ⟨freeWork s.free, s.free + 1, congrArg _ (transformCommand_noSchedule hb hv)⟩

end Sys2Proof.Machine
end

section
/-! The reset event (rules R38, R250, R251): what its step leaves, from any state. -/

namespace Sys2Proof.Machine

/-- The hold rule is not about a reset: its step takes effect from every state (rules R72, R250). -/
theorem step_of_reset {s : State} {rest : List HostAction} (hs : s.script = .reset :: rest) :
    step s = .next (s.continueWith rest).afterReset :=
  step_of_not_held (.inr rfl) hs

/-- Settles O4: the step leaves the values of the reset state, which `resetStateIsAllZero` names, beside the host's side. -/
theorem resetFromAnyStateGivesResetState : Obligations.ResetFromAnyStateGivesResetState := by
  intro s rest hs
  obtain ⟨hcmd, hstatus, herr, hklen, hblen, hkey, hdin, hdout, hdv, hfkv, hskv, hfatal, hfrk, hw, hphase, hrnd, -⟩ :=
    resetStateIsAllZero
  exact ⟨_, step_of_reset hs, hcmd, hstatus, herr, hklen, hblen, hkey, hdin, hdout, hdv, hfkv, hskv, hfatal, hfrk, hw, hphase,
    hrnd, rfl, rfl⟩

end Sys2Proof.Machine
end
